-- ==== Sys2Proof/Word.lean ====
section
/-! DEFINITION. Word.lean: the widths the hardware's data have (spec 00_scope.md R7, R10). -/

namespace Sys2Proof

/-- `u32`, the width of a key word, of `left` and `right`, and of every window register (R7, R10, R41). -/
abbrev Word := BitVec 32

/-- `u8`: a message byte, a key character, one byte of a block (R10). -/
abbrev Byte := BitVec 8

/-- `u4`: an entry of the substitution table (R10, R25). -/
abbrev Nibble := BitVec 4

/-- A block: "fixed 8-byte unit processed by the cipher" (R7, R15), byte `k` at index `k`. -/
abbrev Block := Vector Byte 8

/-- Eight 32-bit words: the key, or the loader's staging words (R20, R22). -/
abbrev KeyWords := Vector Word 8

/-- The substitution table: row `j` in 0..7, column `n` in 0..15, entries of 4 bits (R25). -/
abbrev SBox := Vector (Vector Nibble 16) 8

end Sys2Proof
end

