-- ==== Sys2Proof/Config.lean ====
section
/-! DEFINITION. Config.lean: the open parameters of the spec (00_scope.md R8) and the model's free values.
Each is a constant with no body: nothing can be proved of its value beyond what its type says. -/

namespace Sys2Proof

/-- What a host access is answered with on the bus. -/
inductive BusReply where
  /-- No access has been answered yet, or the bus gives no answer. -/
  | noReply
  /-- An admitted read returned this word (R42). -/
  | data (v : Word)
  /-- An admitted write ended without an error (R43). -/
  | written
  /-- The bus error response `raise BusError(addr)` of R44 and R112; `addr` is the access's byte address. -/
  | busError (addr : Int)
deriving DecidableEq, Repr, Inhabited

namespace Config

/-- The rows of the parameter SBOX, OPEN in the spec (R8, R25, decision D4): each of the eight rows is a
permutation of 0..15, and that is all a model may assume (log entry 1). -/
opaque sboxRow : Fin 8 → Equiv.Perm (Fin 16)

/-- The contents of the S-box ROM: entry `SBOX[j][n]` (R25). -/
def sbox : SBox :=
  Vector.ofFn fun j => Vector.ofFn fun n => BitVec.ofFin (sboxRow j n)

/-- BASE divided by 0x100, OPEN in the spec (R8, decision D20; log entry 2). -/
opaque basePage : Nat

/-- The byte address of the register window on the host bus: a multiple of 0x100 (R8, R40). -/
def base : Nat := 0x100 * basePage

/-- CYCLES_PER_STEP, OPEN in the spec (R8, R130, decision D7): any positive number; no rule uses it
(log entry 14). -/
opaque cyclesPerStep : ℕ+

/-- FREE VALUE: what the host bus answers the `n`-th access made while reset is held. R122: "what the host
bus returns for an access then is outside this spec" (log entry 5). -/
opaque resetReply : Nat → BusReply

end Config

end Sys2Proof
end

