-- ==== Sys2Proof/Machine/State.lean ====
section
/-! DEFINITION. Machine/State.lean: everything the spec gives the machine (10_state.md R16 to R38), the host that
drives it (R16, R52), and the reasons a step can stop. -/

namespace Sys2Proof.Machine

/-- JOB: the cipher job in progress, or none (R27). -/
inductive Job where
  | none
  /-- ENCRYPT's job. -/
  | enc
  /-- DECRYPT's job. -/
  | dec
  /-- A full message block. -/
  | hblk
  /-- The final padded block. -/
  | hfin
deriving DecidableEq, Repr

/-- PHASE: encodings 0, 1 and 2; encoding 3 is never held (R31; log entry 11). -/
inductive Phase where
  | idle
  | absorb
  | done
deriving DecidableEq, Repr

/-- The result codes of STATUS.ERR, 0 to 6 in this order; codes 7 to 15 are never written (R102; log
entry 11). -/
inductive ErrCode where
  | ok
  | invalidKeyLength
  | invalidKeyEncoding
  | keyNotLoaded
  | illegalCommand
  | hashNotActive
  | keyLocked
deriving DecidableEq, Repr

/-- One thing the host does, at byte address `BASE + off` (R42, R43, R64). -/
inductive HostOp where
  /-- `MemRead(BASE + off, n)`. -/
  | read (off : Int) (n : Nat)
  /-- `MemWrite(BASE + off, n, v)`. -/
  | write (off : Int) (n : Nat) (v : Word)
  /-- The pseudo-command WAIT: read STATUS until its bit 0 is 0 (R64; log entry 12). -/
  | wait
deriving DecidableEq, Repr

/-- Who moves in a step. The spec admits every interleaving of host and engine (R17) and a reset between any
two steps (R122); a list of turns says which one happens. -/
inductive Turn where
  /-- The host's next operation. -/
  | host
  /-- One engine step, if it is enabled (R74). -/
  | engine
  /-- The platform asserts reset and releases it, as one atomic step (R122). -/
  | reset
  /-- The platform asserts reset and holds it (R122). -/
  | holdReset
  /-- The platform releases a held reset (R122). -/
  | releaseReset
deriving DecidableEq, Repr

/-- The machine's state: the CORE's state elements, the ROM's contents, the level of the reset input, and the
environment that drives the CORE. -/
structure State where
  /-- KEY[0..7] (R20). -/
  key : KeyWords
  /-- KMASK: bit `i` says that `KEY[i]` has been loaded (R21). -/
  kmask : BitVec 8
  /-- KSTAGE[0..7], the loader's staging words (R22). -/
  kstage : KeyWords
  /-- KCNT: characters received, saturating at 65, held in 7 bits (R23). -/
  kcnt : BitVec 7
  /-- KBAD: a character received was not a hexadecimal digit (R24). -/
  kbad : Bool
  /-- The contents of the S-box ROM (R25, R40): a parameter of the machine, which no step writes (log entry 1). -/
  sbox : SBox
  /-- L (R26). -/
  left : Word
  /-- R (R26). -/
  right : Word
  /-- JOB (R27). -/
  job : Job
  /-- RND: the index of the next round, held in 5 bits (R27). -/
  rnd : BitVec 5
  /-- MBLK: the plaintext block of the job in progress (R30). -/
  mblk : Block
  /-- ACC: the accumulator (R28). -/
  acc : Block
  /-- BUF[0..7]: the partial message block (R29). -/
  buf : Block
  /-- BUFCNT: the number of valid bytes in BUF, held in 3 bits (R29). -/
  bufcnt : BitVec 3
  /-- PHASE (R31). -/
  phase : Phase
  /-- DATA (R32). -/
  data : Word
  /-- BLK_IN0 (R33). -/
  blkIn0 : Word
  /-- BLK_IN1 (R33). -/
  blkIn1 : Word
  /-- BLK_OUT0 (R34). -/
  blkOut0 : Word
  /-- BLK_OUT1 (R34). -/
  blkOut1 : Word
  /-- ERR: the result code of the most recent accepted command (R35). -/
  err : ErrCode
  /-- OVR: a command was dropped (R36). -/
  ovr : Bool
  /-- The reset input is held asserted (R122; log entry 21). -/
  inReset : Bool
  /-- What the host has still to do, in the order it issues it (R52 (a)). -/
  hostQueue : List HostOp
  /-- Who moves in the coming steps; where the list ends, the rule of `State.nextTurn` goes on (R17). -/
  turns : List Turn
  /-- What the last host access was answered with (R42, R44). -/
  reply : BusReply
  /-- The MODEL's own counter: how many free values of Config.resetReply have been used (log entry 5). -/
  freeIdx : Nat
deriving DecidableEq, Repr

/-- Why a step can stop. -/
inductive Fault where
  /-- Raised by a host access whose address `BASE + off` lies outside `[BASE, BASE + 0xFF]`: the address does not
  belong to the CORE, and what the host bus does with it is outside the spec (R45). SAFE: the model stops where
  a platform would go on (log entry 6). -/
  | outsideWindow (off : Int)
deriving DecidableEq, Repr

/-- Why an instruction can have no meaning. -/
inductive Refusal where
  /-- Answered only by an arm of `exec` for an instruction that has no meaning yet; no arm does. SAFE. -/
  | notModelled (mnemonic : String)
deriving DecidableEq, Repr

/-- The state right after reset: every element at the value of R123, the ROM holding SBOX, reset released, and
the host with nothing to do (log entry 10). -/
def State.reset : State where
  key := Vector.replicate 8 0
  kmask := 0
  kstage := Vector.replicate 8 0
  kcnt := 0
  kbad := false
  sbox := Config.sbox
  left := 0
  right := 0
  job := .none
  rnd := 0
  mblk := Vector.replicate 8 0
  acc := Vector.replicate 8 0
  buf := Vector.replicate 8 0
  bufcnt := 0
  phase := .idle
  data := 0
  blkIn0 := 0
  blkIn1 := 0
  blkOut0 := 0
  blkOut1 := 0
  err := .ok
  ovr := false
  inReset := false
  hostQueue := []
  turns := []
  reply := .noReply
  freeIdx := 0

end Sys2Proof.Machine
end

