-- ==== Sys2Proof/Machine/Flags.lean ====
section
/-! DEFINITION. Machine/Flags.lean: the derived bits BUSY and KEYV, the encodings STATUS shows, and STATUS itself
(10_state.md R21, R27, R31, R37; 60_exceptions.md R102). The hardware has no arithmetic flags (R77). -/

namespace Sys2Proof.Machine

/-- BUSY: `JOB != NONE` (R27). -/
def State.busy (s : State) : Bool := s.job != .none

/-- KEYV: `KMASK = 0xFF` (R21). -/
def State.keyv (s : State) : Bool := s.kmask == 0xFF

/-- The encoding of PHASE in STATUS[3:2] (R31). -/
def Phase.bits (p : Phase) : BitVec 2 :=
  match p with
  | .idle => 0
  | .absorb => 1
  | .done => 2

/-- The code of a result in STATUS[11:8] (R102). -/
def ErrCode.bits (e : ErrCode) : BitVec 4 :=
  match e with
  | .ok => 0
  | .invalidKeyLength => 1
  | .invalidKeyEncoding => 2
  | .keyNotLoaded => 3
  | .illegalCommand => 4
  | .hashNotActive => 5
  | .keyLocked => 6

/-- STATUS, from bit 31 down to bit 0; bits [15] and [7:5] are reserved and read 0 (R37). -/
def State.status (s : State) : Word :=
  BitVec.ofBool s.kbad ++ s.kcnt ++ s.kmask ++ 0#1 ++ s.bufcnt ++ s.err.bits ++ 0#3 ++ BitVec.ofBool s.ovr
    ++ s.phase.bits ++ BitVec.ofBool s.keyv ++ BitVec.ofBool s.busy

end Sys2Proof.Machine
end

