-- ==== Sys2Proof/Machine/Operands.lean ====
section
/-! DEFINITION. Machine/Operands.lean: words, bytes and blocks in the order the hardware packs them, and the
operands the commands take from the state (00_scope.md R11, R12; 20_memory.md R46 to R50). -/

namespace Sys2Proof.Machine

/-- `rol32(x, n)` for 0 < n < 32 (R11). -/
def rol32 (x : Word) (n : Nat) : Word := (x <<< n) ||| (x >>> (32 - n))

/-- `le32(b0, b1, b2, b3)`: little-endian assembly (R12). -/
def le32 (b0 b1 b2 b3 : Byte) : Word :=
  b0.setWidth 32 ||| (b1.setWidth 32 <<< 8) ||| (b2.setWidth 32 <<< 16) ||| (b3.setWidth 32 <<< 24)

/-- Byte `k` of `bytes_le32(w)`, least significant first (R12). -/
def byteOf (w : Word) (k : Nat) : Byte := w.extractLsb' (8 * k) 8

/-- `word0(B)`: bytes 0 to 3, the source's `left` (R12, R47). -/
def word0 (b : Block) : Word := le32 b[0] b[1] b[2] b[3]

/-- `word1(B)`: bytes 4 to 7, the source's `right` (R12, R47). -/
def word1 (b : Block) : Word := le32 b[4] b[5] b[6] b[7]

/-- `blk(w0, w1) = bytes_le32(w0) ++ bytes_le32(w1)` (R12, R47). -/
def blk (w0 w1 : Word) : Block :=
  #v[byteOf w0 0, byteOf w0 1, byteOf w0 2, byteOf w0 3,
     byteOf w1 0, byteOf w1 1, byteOf w1 2, byteOf w1 3]

/-- The block of eight equal bytes, `rep(8, b)` (R12). -/
def repBlock (b : Byte) : Block := Vector.replicate 8 b

/-- Bytewise exclusive OR of two blocks. -/
def xorBlock (a b : Block) : Block := Vector.ofFn fun k => a[k] ^^^ b[k]

/-- The input block of ENCRYPT and DECRYPT, `blk(BLK_IN0, BLK_IN1)` (R33, R75). -/
def State.inputBlock (s : State) : Block := blk s.blkIn0 s.blkIn1

/-- `BUF with byte n replaced by b`, `n = BUFCNT`: HASH_BYTE's block (R85). -/
def State.bufWith (s : State) (b : Byte) : Block := s.buf.set s.bufcnt.toNat b s.bufcnt.isLt

/-- `BUF[0 .. n-1] ++ rep(p, p)` with `n = BUFCNT` and `p = 8 - n`: HASH_FINAL's block (R86). -/
def State.paddedBlock (s : State) : Block :=
  Vector.ofFn fun k =>
    if k.val < s.bufcnt.toNat then s.buf[k] else BitVec.ofNat 8 (8 - s.bufcnt.toNat)

end Sys2Proof.Machine
end

