-- ==== Sys2Proof/Machine/Ops.lean ====
section
/-! DEFINITION. Machine/Ops.lean: the operations the meanings share: reporting, dropping, accepting, starting a
job, emptying the key loader, answering the host, and the one exception the CORE raises. -/

namespace Sys2Proof.Machine

/-- `report C`: `ERR <- C`, and nothing else is recorded (R103). -/
def State.report (c : ErrCode) (s : State) : State := { s with err := c }

/-- `drop(cmd)`: `OVR <- 1`, nothing else changes (R98). -/
def State.drop (s : State) : State := { s with ovr := true }

/-- The start of a cipher job: `L <- l; R <- r; RND <- 0; JOB <- j` (R75, R76, R85, R86). -/
def State.startJob (j : Job) (l r : Word) (s : State) : State :=
  { s with left := l, right := r, rnd := 0, job := j }

/-- The key loader emptied: `KSTAGE[i] <- 0; KCNT <- 0; KBAD <- 0` (R93, R95). -/
def State.emptyLoader (s : State) : State :=
  { s with kstage := Vector.replicate 8 0, kcnt := 0, kbad := false }

/-- The answer of the bus to a host access. -/
def State.respond (a : BusReply) (s : State) : State := { s with reply := a }

/-- TAKING THE EXCEPTION: `raise BusError(BASE + off)`, the only exception the CORE raises (R44, R111, R112).
The host is told the access address; the CORE's state does not change and records nothing of it. There is no
vector, no saved register, no mode change and no return from it (R111, R115; log entry 7). -/
def State.raiseBusError (off : Int) (s : State) : State := s.respond (.busError (Config.base + off))

/-- A legal command word reaches the CORE. Held in reset the CORE takes no access (R122); with `BUSY = 1` the
command is dropped (R98); with `BUSY = 0` its acceptance runs, as one atomic step (R97; log entry 8). -/
def acceptCommand (effect : State → State) (s : State) : Host.Outcome State Fault Refusal :=
  if s.inReset then .next s
  else if s.busy then .next s.drop
  else .next (effect s)

end Sys2Proof.Machine
end

