-- ==== Sys2Proof/Machine/Cipher.lean ====
section
/-! DEFINITION. Machine/Cipher.lean: the Feistel cipher's functions and the commands ENCRYPT and DECRYPT
(40_cipher.md R65 to R76). -/

namespace Sys2Proof.Machine

/-- Nibble `j` of a word, `x[4j+3 : 4j]` (R65). -/
def nibbleOf (x : Word) (j : Nat) : Nibble := x.extractLsb' (4 * j) 4

/-- Lane `j` of `S(x)`: `zext_32(SBOX[j][x[4j+3:4j]]) << 4j` (R65). -/
def lane (t : SBox) (x : Word) (j : Fin 8) : Word :=
  (t[j][(nibbleOf x j).toFin]).setWidth 32 <<< (4 * j.val)

/-- The nibble substitution `S(x)`: the OR of the eight lanes (R65). -/
def subst (t : SBox) (x : Word) : Word :=
  lane t x 0 ||| lane t x 1 ||| lane t x 2 ||| lane t x 3 ||| lane t x 4 ||| lane t x 5 ||| lane t x 6
    ||| lane t x 7

/-- The round function `G(x, k) = rol32(S(x +32 k), 11)` (R66). -/
def roundFn (t : SBox) (x k : Word) : Word := rol32 (subst t (x + k)) 11

/-- The encryption key schedule (R67). -/
def ksEnc (i : Nat) : Fin 8 :=
  if i < 24 then ⟨i % 8, by omega⟩ else ⟨7 - i % 8, by omega⟩

/-- The decryption key schedule, the second form of R68. -/
def ksDec (i : Nat) : Fin 8 :=
  if h : i < 8 then ⟨i, h⟩ else ⟨7 - i % 8, by omega⟩

/-- One round of the network on `(left, right)`: rounds 0 to 30 swap, round 31 does not (R69). -/
def cryptRound (t : SBox) (key : KeyWords) (ks : Nat → Fin 8) (lr : Word × Word) (i : Nat) : Word × Word :=
  let temp := roundFn t lr.1 key[ks i] ^^^ lr.2
  if i < 31 then (temp, lr.1) else (lr.1, temp)

/-- The 32-round network `Crypt(B, K, ks)` (R69). -/
def crypt (t : SBox) (key : KeyWords) (ks : Nat → Fin 8) (b : Block) : Block :=
  let lr := (List.range 32).foldl (cryptRound t key ks) (word0 b, word1 b)
  blk lr.1 lr.2

/-- `Encrypt(B, K) = Crypt(B, K, ks_enc)` (R70). -/
def encryptBlock (t : SBox) (key : KeyWords) (b : Block) : Block := crypt t key ksEnc b

/-- `Decrypt(B, K) = Crypt(B, K, ks_dec)` (R71). -/
def decryptBlock (t : SBox) (key : KeyWords) (b : Block) : Block := crypt t key ksDec b

/-- The acceptance of a command that starts a cipher job on BLK_IN0 and BLK_IN1 (R75, R76). -/
def startCipher (j : Job) (s : State) : State :=
  if s.keyv then (s.startJob j s.blkIn0 s.blkIn1).report .ok else s.report .keyNotLoaded

/-- ENCRYPT: encipher the block in BLK_IN0 and BLK_IN1 (R75). -/
def execEncrypt (s : State) : Host.Outcome State Fault Refusal := acceptCommand (startCipher .enc) s

/-- DECRYPT: decipher the block in BLK_IN0 and BLK_IN1 (R76). -/
def execDecrypt (s : State) : Host.Outcome State Fault Refusal := acceptCommand (startCipher .dec) s

end Sys2Proof.Machine
end

