-- ==== Sys2Proof/Machine/Digest.lean ====
section
/-! DEFINITION. Machine/Digest.lean: padding, the fold, the digest function, and the commands HASH_INIT, HASH_BYTE
and HASH_FINAL (41_digest.md R78 to R88). -/

namespace Sys2Proof.Machine

/-- The padding length, `8 - (len(m) mod 8)`, 1 to 8 (R78). -/
def padLength (m : List Byte) : Nat := 8 - m.length % 8

/-- `pad(m) = m ++ rep(p, p)` (R78). -/
def pad (m : List Byte) : List Byte :=
  m ++ List.replicate (padLength m) (BitVec.ofNat 8 (padLength m))

/-- `fold(acc, E, M)[k] = acc[k] ^ E[k] ^ M[k]` (R80). -/
def fold (acc e m : Block) : Block := Vector.ofFn fun k => acc[k] ^^^ e[k] ^^^ m[k]

/-- Block `b` of a byte sequence, `P[8b .. 8b + 7]` (R81). Read only where the sequence has all eight bytes. -/
def blockAt (p : List Byte) (b : Nat) : Block := Vector.ofFn fun k => p.getD (8 * b + k.val) 0

/-- `Hash(m, K)`: the fold over the blocks of the padded message, in order, from all zeros, every block under
the same key (R81). -/
def hash (t : SBox) (key : KeyWords) (m : List Byte) : Block :=
  (List.range ((pad m).length / 8)).foldl
    (fun acc b => fold acc (encryptBlock t key (blockAt (pad m) b)) (blockAt (pad m) b))
    (repBlock 0)

/-- HASH_INIT's acceptance (R84). -/
def startHash (s : State) : State :=
  if s.keyv then
    { s with acc := repBlock 0, buf := repBlock 0, bufcnt := 0, phase := .absorb }.report .ok
  else s.report .keyNotLoaded

/-- HASH_BYTE's acceptance: append the byte; the eighth starts an HBLK job (R85). -/
def absorbByte (b : Byte) (s : State) : State :=
  if s.phase = .absorb then
    let b2 := s.bufWith b
    let s' := { s with buf := b2 }
    if s.bufcnt.toNat < 7 then
      { s' with bufcnt := s.bufcnt + 1 }.report .ok
    else
      ({ s' with mblk := b2, bufcnt := 0 }.startJob .hblk (word0 b2) (word1 b2)).report .ok
  else s.report .hashNotActive

/-- HASH_FINAL's acceptance: pad the buffered bytes and start an HFIN job (R86). -/
def finishHash (s : State) : State :=
  if s.phase = .absorb then
    let m := s.paddedBlock
    ({ s with mblk := m, bufcnt := 0 }.startJob .hfin (word0 m) (word1 m)).report .ok
  else s.report .hashNotActive

/-- HASH_INIT: start a new digest (R84). -/
def execHashInit (s : State) : Host.Outcome State Fault Refusal := acceptCommand startHash s

/-- HASH_BYTE b: append one message byte (R85). -/
def execHashByte (b : Byte) (s : State) : Host.Outcome State Fault Refusal := acceptCommand (absorbByte b) s

/-- HASH_FINAL: pad and encipher the last block (R86). -/
def execHashFinal (s : State) : Host.Outcome State Fault Refusal := acceptCommand finishHash s

end Sys2Proof.Machine
end

