-- ==== Sys2Proof/Machine/Engine.lean ====
section
/-! DEFINITION. Machine/Engine.lean: the engine step, one Feistel round of the job in progress (40_cipher.md R74). -/

namespace Sys2Proof.Machine

/-- The key word of the round to run: `KEY[ks_dec(i)]` for a DEC job, `KEY[ks_enc(i)]` otherwise, `i = RND` (R74). -/
def State.roundKey (s : State) : Word :=
  if s.job = .dec then s.key[ksDec s.rnd.toNat] else s.key[ksEnc s.rnd.toNat]

/-- `temp = G(L, k) ^ R` (R74). -/
def State.roundTemp (s : State) : Word := roundFn s.sbox s.left s.roundKey ^^^ s.right

/-- What round 31 does besides `R <- temp`: the job ends and its results are written, all in this step (R74,
R52 (c)). -/
def completeJob (temp : Word) (s : State) : State :=
  let out := blk s.left temp
  let s' := { s with right := temp, rnd := 0, job := .none }
  match s.job with
  | .none => s
  | .enc => { s' with blkOut0 := word0 out, blkOut1 := word1 out }
  | .dec => { s' with blkOut0 := word0 out, blkOut1 := word1 out }
  | .hblk => { s' with acc := fold s.acc out s.mblk }
  | .hfin => { s' with acc := fold s.acc out s.mblk, phase := .done }

/-- The engine step, enabled exactly when `JOB != NONE`; where it is not enabled there is no step and the state
stays (R74, R121). -/
def engineStep (s : State) : State :=
  if s.job = .none then s
  else if s.rnd.toNat < 31 then
    { s with left := s.roundTemp, right := s.left, rnd := s.rnd + 1 }
  else completeJob s.roundTemp s

/-- The engine's turn: while reset is held the engine takes no step (R122). -/
def engineTurn (s : State) : State := if s.inReset then s else engineStep s

end Sys2Proof.Machine
end

