-- ==== Sys2Proof/Syntax.lean ====
section
/-! DEFINITION. Syntax.lean: the commands, one constructor per row of spec/opcode_table.json (30_encoding.md R60).
A command is this hardware's instruction: a word the host writes to CMD (R15). -/

namespace Sys2Proof

/-- The eleven commands. A format B operand is the byte `cmd[15:8]`; a format I operand is held as the whole
field IMM8, whose bits above the index must be 0 (R58, R59): that bound is checked in WellFormed.lean. -/
inductive Instr where
  /-- NOP (R100). -/
  | nop
  /-- CLR_STATUS (R101). -/
  | clrStatus
  /-- ENCRYPT (R75). -/
  | encrypt
  /-- DECRYPT (R76). -/
  | decrypt
  /-- HASH_INIT (R84). -/
  | hashInit
  /-- HASH_BYTE b (R85). -/
  | hashByte (b : Byte)
  /-- HASH_FINAL (R86). -/
  | hashFinal
  /-- KEY_CLEAR (R93). -/
  | keyClear
  /-- KEY_CHAR c (R94). -/
  | keyChar (c : Byte)
  /-- KEY_COMMIT (R95). -/
  | keyCommit
  /-- KEY_WORD idx (R96). -/
  | keyWord (idx : Byte)
deriving DecidableEq, Repr

end Sys2Proof
end

