-- ==== Sys2Proof/WellFormed.lean ====
section
/-! DEFINITION. WellFormed.lean: which terms of the syntax are commands the encoding has (30_encoding.md R59, R62). -/

namespace Sys2Proof

/-- The one check the types of the operands do not make: KEY_WORD's index is `idx = cmd[10:8]`, 0..7, and bits
[15:11] of the word are 0 (R59, R62 (d)). A format B operand may be any byte. -/
def Instr.wellFormed (i : Instr) : Bool :=
  match i with
  | .nop => true
  | .clrStatus => true
  | .encrypt => true
  | .decrypt => true
  | .hashInit => true
  | .hashByte _ => true
  | .hashFinal => true
  | .keyClear => true
  | .keyChar _ => true
  | .keyCommit => true
  | .keyWord idx => decide (idx.toNat < 8)

end Sys2Proof
end

