-- ==== Sys2Proof/Decode.lean ====
section
/-! DEFINITION. Decode.lean: from a 32-bit command word to a command or a named rejection, and the encoder
(30_encoding.md R57 to R63). A command is exactly one word (R57), so decoding is a function of that word. -/

namespace Sys2Proof

/-- Field OPC, bits [7:0] (R58). -/
def opcField (w : Word) : Byte := w.extractLsb' 0 8

/-- Field IMM8, bits [15:8] (R58). -/
def imm8Field (w : Word) : Byte := w.extractLsb' 8 8

/-- Field RSV, bits [31:16] (R58). -/
def rsvField (w : Word) : BitVec 16 := w.extractLsb' 16 16

/-- Why a word is illegal: the four cases of R62, in its order. -/
inductive DecodeError where
  /-- (a) `RSV != 0`. -/
  | reservedBits
  /-- (b) OPC is a reserved value. -/
  | reservedOpcode
  /-- (c) OPC is a format N command and `IMM8 != 0`. -/
  | operandNotZero
  /-- (d) OPC is KEY_WORD and `IMM8[7:3] != 0`. -/
  | indexTooLarge
deriving DecidableEq, Repr

/-- A format N command: IMM8 must be 0x00 (R59). -/
def noOperand (imm : Byte) (i : Instr) : Except DecodeError Instr :=
  if imm = 0x00 then .ok i else .error .operandNotZero

/-- The format I command: bits [15:11] must be 0 (R59). -/
def indexOperand (imm : Byte) : Except DecodeError Instr :=
  if imm.toNat < 8 then .ok (.keyWord imm) else .error .indexTooLarge

/-- The opcode map of R60, applied to the fields OPC and IMM8 of a word whose RSV is 0. -/
def decodeFields (opc imm : Byte) : Except DecodeError Instr :=
  if opc = 0x00 then noOperand imm .nop
  else if opc = 0x01 then noOperand imm .clrStatus
  else if opc = 0x10 then noOperand imm .encrypt
  else if opc = 0x11 then noOperand imm .decrypt
  else if opc = 0x20 then noOperand imm .hashInit
  else if opc = 0x21 then .ok (.hashByte imm)
  else if opc = 0x22 then noOperand imm .hashFinal
  else if opc = 0x30 then noOperand imm .keyClear
  else if opc = 0x31 then .ok (.keyChar imm)
  else if opc = 0x32 then noOperand imm .keyCommit
  else if opc = 0x33 then indexOperand imm
  else .error .reservedOpcode

/-- Decoding of a command word, total on all 32-bit words (R61, R62). -/
def decode (w : Word) : Except DecodeError Instr :=
  if rsvField w = 0 then decodeFields (opcField w) (imm8Field w) else .error .reservedBits

/-- The OPC value of a command (R60). -/
def opcode (i : Instr) : Byte :=
  match i with
  | .nop => 0x00
  | .clrStatus => 0x01
  | .encrypt => 0x10
  | .decrypt => 0x11
  | .hashInit => 0x20
  | .hashByte _ => 0x21
  | .hashFinal => 0x22
  | .keyClear => 0x30
  | .keyChar _ => 0x31
  | .keyCommit => 0x32
  | .keyWord _ => 0x33

/-- The operand byte of a command, "the operand 0 for format N" (R63). -/
def operandByte (i : Instr) : Byte :=
  match i with
  | .nop => 0x00
  | .clrStatus => 0x00
  | .encrypt => 0x00
  | .decrypt => 0x00
  | .hashInit => 0x00
  | .hashByte b => b
  | .hashFinal => 0x00
  | .keyClear => 0x00
  | .keyChar c => c
  | .keyCommit => 0x00
  | .keyWord idx => idx

/-- The encoding of a command: `zext_32(OPC) | zext_32(operand) << 8` (R63). -/
def encode (i : Instr) : Word :=
  (opcode i).setWidth 32 ||| ((operandByte i).setWidth 32 <<< 8)

/-- The mnemonic of a command, as spec/opcode_table.json spells it (R60). -/
def mnemonic (i : Instr) : String :=
  match i with
  | .nop => "NOP"
  | .clrStatus => "CLR_STATUS"
  | .encrypt => "ENCRYPT"
  | .decrypt => "DECRYPT"
  | .hashInit => "HASH_INIT"
  | .hashByte _ => "HASH_BYTE"
  | .hashFinal => "HASH_FINAL"
  | .keyClear => "KEY_CLEAR"
  | .keyChar _ => "KEY_CHAR"
  | .keyCommit => "KEY_COMMIT"
  | .keyWord _ => "KEY_WORD"

/-- A row of the decoding table: a word selects it when `(cmd & mask) = pattern` (R61). -/
structure OpcodeRow where
  name : String
  pattern : Word
  mask : Word
deriving DecidableEq, Repr

/-- The decoding table of R61, row for row. The decoder above does not use it; that the two agree is an
obligation. -/
def opcodeTable : List OpcodeRow :=
  [ ⟨"NOP", 0x00000000, 0xFFFFFFFF⟩,
    ⟨"CLR_STATUS", 0x00000001, 0xFFFFFFFF⟩,
    ⟨"ENCRYPT", 0x00000010, 0xFFFFFFFF⟩,
    ⟨"DECRYPT", 0x00000011, 0xFFFFFFFF⟩,
    ⟨"HASH_INIT", 0x00000020, 0xFFFFFFFF⟩,
    ⟨"HASH_BYTE", 0x00000021, 0xFFFF00FF⟩,
    ⟨"HASH_FINAL", 0x00000022, 0xFFFFFFFF⟩,
    ⟨"KEY_CLEAR", 0x00000030, 0xFFFFFFFF⟩,
    ⟨"KEY_CHAR", 0x00000031, 0xFFFF00FF⟩,
    ⟨"KEY_COMMIT", 0x00000032, 0xFFFFFFFF⟩,
    ⟨"KEY_WORD", 0x00000033, 0xFFFFF8FF⟩ ]

/-- A word selects a row (R61). -/
def OpcodeRow.selectedBy (row : OpcodeRow) (w : Word) : Bool := w &&& row.mask == row.pattern

/-- The instruction the decoder reads from a word given as a number whose bits above `nbits` are 0. A command is
one 32-bit word (R57), so a number with a bit above bit 31 is no command (log entry 18). -/
def decodeTableWord (nbits w : Nat) : Option Instr :=
  if w % 2 ^ nbits < 2 ^ 32 then
    match decode (BitVec.ofNat 32 (w % 2 ^ nbits)) with
    | .ok i => some i
    | .error _ => none
  else none

end Sys2Proof
end

