-- ==== Sys2Proof/Machine/Control.lean ====
section
/-! DEFINITION. Machine/Control.lean: the commands NOP and CLR_STATUS, and an illegal word (43_control.md R97 to R101;
30_encoding.md R62). -/

namespace Sys2Proof.Machine

/-- NOP: do nothing but report OK (R100). -/
def execNop (s : State) : Host.Outcome State Fault Refusal := acceptCommand (State.report .ok) s

/-- CLR_STATUS: clear the sticky overrun flag and the error code (R101). -/
def execClrStatus (s : State) : Host.Outcome State Fault Refusal :=
  acceptCommand (fun t => { t with ovr := false }.report .ok) s

/-- An illegal word: when accepted it changes no state except `ERR <- ILLEGAL_COMMAND` (R62, R97, R107). -/
def illegalCommand (s : State) : Host.Outcome State Fault Refusal :=
  acceptCommand (State.report .illegalCommand) s

end Sys2Proof.Machine
end

