-- ==== Sys2Proof/Machine/KeySetup.lean ====
section
/-! DEFINITION. Machine/KeySetup.lean: key parsing and the commands KEY_CLEAR, KEY_CHAR, KEY_COMMIT and KEY_WORD
(42_parameter_setup.md R90 to R96). -/

namespace Sys2Proof.Machine

/-- `hexval(c)` for an ASCII code `c`; `none` is INVALID (R90). -/
def hexval (c : Byte) : Option Nibble :=
  if 0x30 ≤ c.toNat ∧ c.toNat ≤ 0x39 then some (BitVec.ofNat 4 (c.toNat - 0x30))
  else if 0x41 ≤ c.toNat ∧ c.toNat ≤ 0x46 then some (BitVec.ofNat 4 (c.toNat - 0x37))
  else if 0x61 ≤ c.toNat ∧ c.toNat ≤ 0x66 then some (BitVec.ofNat 4 (c.toNat - 0x57))
  else none

/-- A hexadecimal digit's value placed at digit position `pos`, position 7 the most significant: `zext_32(v) << 4pos`
(R91, R94). -/
def digitAt (v : Nibble) (pos : Nat) : Word := v.setWidth 32 <<< (4 * pos)

/-- `(w & ~(0xF << 4pos)) | (zext_32(v) << 4pos)` (R94). -/
def putDigit (w : Word) (v : Nibble) (pos : Nat) : Word :=
  (w &&& ~~~((0xF : Word) <<< (4 * pos))) ||| digitAt v pos

/-- Why a key string is not a key (R91). -/
inductive KeyError where
  | invalidKeyLength
  | invalidKeyEncoding
deriving DecidableEq, Repr

/-- The word that eight decoded digits of group `i` give: the OR over `j` of digit `j` at position `7 - j` (R91). -/
def groupWord (digits : List Nibble) (i : Nat) : Word :=
  (List.range 8).foldl (fun w j => w ||| digitAt (digits.getD (8 * i + j) 0) (7 - j)) 0

/-- `ParseKey(s)`: the length check first, then the encoding check, then the eight groups (R91). -/
def parseKey (str : List Byte) : Except KeyError KeyWords :=
  if str.length ≠ 64 then .error .invalidKeyLength
  else match str.mapM hexval with
    | none => .error .invalidKeyEncoding
    | some digits => .ok (Vector.ofFn fun i => groupWord digits i)

/-- A key command while a hash is absorbing reports KEY_LOCKED and changes nothing else (R109). -/
def unlessLocked (effect : State → State) (s : State) : State :=
  if s.phase = .absorb then s.report .keyLocked else effect s

/-- KEY_CLEAR's acceptance past the lock (R93). -/
def clearKey (s : State) : State :=
  { s with key := Vector.replicate 8 0, kmask := 0 }.emptyLoader.report .ok

/-- `KCNT <- min(n + 1, 65)` (R94; log entry 15). -/
def State.nextKcnt (s : State) : BitVec 7 := BitVec.ofNat 7 (min (s.kcnt.toNat + 1) 65)

/-- KSTAGE after digit `v` is received as character `n = KCNT`: word `n div 8`, position `7 - (n mod 8)`; a digit
after the 64th is not stored (R94). -/
def State.stageDigit (v : Nibble) (s : State) : KeyWords :=
  if h : s.kcnt.toNat < 64 then
    s.kstage.set (s.kcnt.toNat / 8)
      (putDigit (s.kstage[s.kcnt.toNat / 8]'(by omega)) v (7 - s.kcnt.toNat % 8)) (by omega)
  else s.kstage

/-- KEY_CHAR's acceptance past the lock (R94). -/
def receiveChar (c : Byte) (s : State) : State :=
  match hexval c with
  | none => { s with kbad := true, kcnt := s.nextKcnt }.report .ok
  | some v => { s with kstage := s.stageDigit v, kcnt := s.nextKcnt }.report .ok

/-- KEY_COMMIT's acceptance past the lock: the length check, then the encoding check, then the key is loaded; the
loader is emptied in each case (R95). -/
def commitKey (s : State) : State :=
  if s.kcnt ≠ 64 then ({ s with kmask := 0 }.report .invalidKeyLength).emptyLoader
  else if s.kbad then ({ s with kmask := 0 }.report .invalidKeyEncoding).emptyLoader
  else ({ s with key := s.kstage, kmask := 0xFF }.report .ok).emptyLoader

/-- KEY_WORD's acceptance past the lock: `KEY[idx] <- DATA; KMASK <- KMASK | (1 << idx)` (R96). -/
def loadWord (idx : Byte) (h : idx.toNat < 8) (s : State) : State :=
  { s with key := s.key.set idx.toNat s.data h, kmask := s.kmask ||| ((1 : BitVec 8) <<< idx.toNat) }.report .ok

/-- KEY_CLEAR: discard the key and empty the key loader (R93). -/
def execKeyClear (s : State) : Host.Outcome State Fault Refusal := acceptCommand (unlessLocked clearKey) s

/-- KEY_CHAR c: append one key character to the loader (R94). -/
def execKeyChar (c : Byte) (s : State) : Host.Outcome State Fault Refusal :=
  acceptCommand (unlessLocked (receiveChar c)) s

/-- KEY_COMMIT: validate the characters received and, if valid, load them as the key (R95). -/
def execKeyCommit (s : State) : Host.Outcome State Fault Refusal := acceptCommand (unlessLocked commitKey) s

/-- KEY_WORD idx: load key word `idx` from DATA (R96). A term whose index is not in 0..7 encodes as a word that is
illegal (R62 (d)), and what that word does when it is accepted is its meaning (R107; log entry 9). -/
def execKeyWord (idx : Byte) (s : State) : Host.Outcome State Fault Refusal :=
  if h : idx.toNat < 8 then acceptCommand (unlessLocked (loadWord idx h)) s
  else acceptCommand (State.report .illegalCommand) s

end Sys2Proof.Machine
end

