-- ==== Sys2Proof/Machine/Dispatch.lean ====
section
/-! DEFINITION. Machine/Dispatch.lean: each command's meaning, one arm per constructor. -/

namespace Sys2Proof.Machine

def exec (i : Instr) (s : State) : Host.Outcome State Fault Refusal :=
  match i with
  | .nop => Sys2Proof.Machine.execNop s
  | .clrStatus => Sys2Proof.Machine.execClrStatus s
  | .encrypt => Sys2Proof.Machine.execEncrypt s
  | .decrypt => Sys2Proof.Machine.execDecrypt s
  | .hashInit => Sys2Proof.Machine.execHashInit s
  | .hashByte b => Sys2Proof.Machine.execHashByte b s
  | .hashFinal => Sys2Proof.Machine.execHashFinal s
  | .keyClear => Sys2Proof.Machine.execKeyClear s
  | .keyChar c => Sys2Proof.Machine.execKeyChar c s
  | .keyCommit => Sys2Proof.Machine.execKeyCommit s
  | .keyWord idx => Sys2Proof.Machine.execKeyWord idx s

end Sys2Proof.Machine
end

