-- ==== Sys2Proof/Machine/Window.lean ====
section
/-! DEFINITION. Machine/Window.lean: the register window and the host's accesses to it (20_memory.md R40 to R56). The
hardware has no byte memory: its address spaces are this window and the S-box ROM (R40). -/

namespace Sys2Proof.Machine

/-- What a word-aligned offset of the window holds (R41). -/
inductive WindowReg where
  | cmd
  | status
  | data
  | blkIn0
  | blkIn1
  | blkOut0
  | blkOut1
  | dig0
  | dig1
  | key (i : Fin 8)
  | reserved
deriving DecidableEq, Repr

/-- The register at byte offset `off` from BASE; every other offset is reserved (R41). -/
def regAt (off : Nat) : WindowReg :=
  if off = 0x00 then .cmd
  else if off = 0x04 then .status
  else if off = 0x08 then .data
  else if off = 0x10 then .blkIn0
  else if off = 0x14 then .blkIn1
  else if off = 0x18 then .blkOut0
  else if off = 0x1C then .blkOut1
  else if off = 0x20 then .dig0
  else if off = 0x24 then .dig1
  else if h : 0x40 ≤ off ∧ off < 0x60 then .key ⟨(off - 0x40) / 4, by omega⟩
  else .reserved

/-- The content of a register, computed from the state at the instant of the read; CMD and the reserved offsets
read 0 (R41, R42). -/
def readReg (r : WindowReg) (s : State) : Word :=
  match r with
  | .cmd => 0
  | .status => s.status
  | .data => s.data
  | .blkIn0 => s.blkIn0
  | .blkIn1 => s.blkIn1
  | .blkOut0 => s.blkOut0
  | .blkOut1 => s.blkOut1
  | .dig0 => word0 s.acc
  | .dig1 => word1 s.acc
  | .key i => s.key[i]
  | .reserved => 0

/-- A write of `v` to CMD: with `BUSY = 1` the word is dropped and not decoded (R98); else it is decoded, and a
legal word runs its command, an illegal one reports ILLEGAL_COMMAND (R97). -/
def writeCmd (v : Word) (s : State) : Host.Outcome State Fault Refusal :=
  if s.busy then .next s.drop
  else match decode v with
    | .ok i => exec i s
    | .error _ => illegalCommand s

/-- A write to a register: only CMD, DATA, BLK_IN0 and BLK_IN1 take one; any other is ignored (R43). -/
def writeReg (r : WindowReg) (v : Word) (s : State) : Host.Outcome State Fault Refusal :=
  match r with
  | .cmd => writeCmd v s
  | .data => .next { s with data := v }
  | .blkIn0 => .next { s with blkIn0 := v }
  | .blkIn1 => .next { s with blkIn1 := v }
  | .status => .next s
  | .blkOut0 => .next s
  | .blkOut1 => .next s
  | .dig0 => .next s
  | .dig1 => .next s
  | .key _ => .next s
  | .reserved => .next s

/-- `BASE + off` lies in `[BASE, BASE + 0xFF]` (R40, R45). -/
def inWindow (off : Int) : Bool := decide (0 ≤ off ∧ off ≤ 0xFF)

/-- The accesses R44 refuses: a size other than 4, or an address that is no multiple of 4 (BASE is one; log
entry 20). -/
def refusedAccess (off : Int) (n : Nat) : Bool := decide (n ≠ 4 ∨ off % 4 ≠ 0)

/-- A host access: outside the window it is not the CORE's (R45); held in reset the CORE takes none, and the answer
is a free value (R122, log entry 5); refused, it raises BusError (R44); else it is taken. -/
def hostAccess (off : Int) (n : Nat) (taken : State → Host.Outcome State Fault Refusal) (s : State) :
    Host.Outcome State Fault Refusal :=
  if !inWindow off then .fault (.outsideWindow off)
  else if s.inReset then .next ({ s with freeIdx := s.freeIdx + 1 }.respond (Config.resetReply s.freeIdx))
  else if refusedAccess off n then .next (s.raiseBusError off)
  else taken s

/-- `MemRead(BASE + off, n)` (R42). -/
def hostRead (off : Int) (n : Nat) (s : State) : Host.Outcome State Fault Refusal :=
  hostAccess off n (fun t => .next (t.respond (.data (readReg (regAt off.toNat) t)))) s

/-- `MemWrite(BASE + off, n, v)` (R43). -/
def hostWrite (off : Int) (n : Nat) (v : Word) (s : State) : Host.Outcome State Fault Refusal :=
  hostAccess off n (fun t => writeReg (regAt off.toNat) v (t.respond .written)) s

/-- Bit 0, BUSY, of the value read is 0 (R64). -/
def replySaysIdle (a : BusReply) : Bool :=
  match a with
  | .data v => !v.getLsbD 0
  | .noReply => false
  | .written => false
  | .busError _ => false

/-- One read of STATUS by a WAIT; `rest` is what the host does after it. The WAIT ends with the read that shows
`BUSY = 0`, and stays at the head of the queue otherwise (R64). -/
def hostWait (rest : List HostOp) (s : State) : Host.Outcome State Fault Refusal :=
  match hostRead 0x04 4 s with
  | .next t => .next (if replySaysIdle t.reply then { t with hostQueue := rest } else t)
  | .fault r => .fault r
  | .refused r => .refused r

/-- The host's turn: its next operation, if it has one (R52 (a)). -/
def hostTurn (s : State) : Host.Outcome State Fault Refusal :=
  match s.hostQueue with
  | [] => .next s
  | .read off n :: rest => hostRead off n { s with hostQueue := rest }
  | .write off n v :: rest => hostWrite off n v { s with hostQueue := rest }
  | .wait :: rest => hostWait rest s

end Sys2Proof.Machine
end

