-- ==== Sys2Proof/Machine/Turns.lean ====
section
/-! DEFINITION. Machine/Turns.lean: who moves next, the platform's reset, and one turn of each agent (10_state.md R16, R17;
70_reset_and_hazards.md R122, R123, R131). -/

namespace Sys2Proof.Machine

/-- Who moves next: the head of the list of turns, which is any list, so that every interleaving is some state's
(R17). Where the list has ended, an enabled engine step is taken, and else the host moves: the fair
schedule of R131 (log entry 3). -/
def State.nextTurn (s : State) : Turn :=
  match s.turns with
  | t :: _ => t
  | [] => if s.busy then .engine else .host

/-- The turn taken is gone from the list. -/
def State.popTurn (s : State) : State := { s with turns := s.turns.tail }

/-- Every state element takes its reset value, a job in progress is abandoned, and the ROM keeps its contents (R122,
R123); what the host has to do and was answered is not the CORE's (log entry 10). `held`: reset stays asserted. -/
def platformReset (held : Bool) (s : State) : State :=
  { State.reset with
    sbox := s.sbox, inReset := held, hostQueue := s.hostQueue, turns := s.turns, reply := s.reply,
    freeIdx := s.freeIdx }

/-- One turn (R16, R17, R122). -/
def takeTurn (t : Turn) (s : State) : Host.Outcome State Fault Refusal :=
  match t with
  | .host => hostTurn s
  | .engine => .next (engineTurn s)
  | .reset => .next (platformReset false s)
  | .holdReset => .next (platformReset true s)
  | .releaseReset => .next { s with inReset := false }

end Sys2Proof.Machine
end

