-- ==== Sys2Proof/Machine/Step.lean ====
section
/-! DEFINITION. Machine/Step.lean: one step of the machine, and how a command word is put where the next step takes
it. -/

namespace Sys2Proof.Machine

/-- One step: exactly one agent moves, atomically (10_state.md R17). -/
def step (s : State) : Host.Outcome State Fault Refusal := takeTurn s.nextTurn s.popTurn

/-- The command word `w` placed so that the very next step is the host's write of it to CMD: the machine fetches
nothing (R19), a command is what the host writes (R57; log entry 4). -/
def State.withFetchWord (s : State) (nbits w : Nat) : State :=
  { s with
    hostQueue := .write 0x00 4 (BitVec.ofNat 32 (w % 2 ^ nbits)) :: s.hostQueue
    turns := .host :: s.turns }

end Sys2Proof.Machine
end

