-- ==== Sys2Proof/Machine/HostProgram.lean ====
section
/-! DEFINITION. Machine/HostProgram.lean: what a host program is made of: the pseudo-commands of 30_encoding.md R64, the
assembly of R63, and the host's rendering of a digest (41_digest.md R88). The CORE sees only the accesses (log entries
12 and 17). -/

namespace Sys2Proof.Machine

/-- `WR CMD, <its encoding>` (R63). -/
def writeCommand (i : Instr) : HostOp := .write 0x00 4 (encode i)

/-- A command followed by WAIT. -/
def issue (i : Instr) : List HostOp := [writeCommand i, .wait]

/-- `KEY_HEX "<s>"` (R64). -/
def keyHexOps (str : List Byte) : List HostOp :=
  issue .keyClear ++ str.flatMap (fun c => issue (.keyChar c)) ++ issue .keyCommit

/-- `KEY_LOAD k0, ..., k7` (R64). -/
def keyLoadOps (ks : KeyWords) : List HostOp :=
  (List.finRange 8).flatMap fun i => .write 0x08 4 ks[i] :: issue (.keyWord (BitVec.ofNat 8 i.val))

/-- `HASH_MSG "<bytes>"` (R64). -/
def hashMsgOps (m : List Byte) : List HostOp :=
  issue .hashInit ++ m.flatMap (fun b => issue (.hashByte b)) ++ issue .hashFinal

/-- `ENC w0, w1` (R64). -/
def encOps (w0 w1 : Word) : List HostOp := [.write 0x10 4 w0, .write 0x14 4 w1] ++ issue .encrypt

/-- `DEC w0, w1` (R64). -/
def decOps (w0 w1 : Word) : List HostOp := [.write 0x10 4 w0, .write 0x14 4 w1] ++ issue .decrypt

/-- One hexadecimal digit, lower case. -/
def hexDigit (n : Nat) : Char :=
  if n < 10 then Char.ofNat (0x30 + n) else Char.ofNat (0x57 + n)

/-- The assembly text of a command: its mnemonic, then its operand as the format writes it (R63). -/
def asmText (i : Instr) : String :=
  match i with
  | .nop => mnemonic i
  | .clrStatus => mnemonic i
  | .encrypt => mnemonic i
  | .decrypt => mnemonic i
  | .hashInit => mnemonic i
  | .hashByte b => mnemonic i ++ " 0x" ++ String.ofList [hexDigit (b.toNat / 16), hexDigit (b.toNat % 16)]
  | .hashFinal => mnemonic i
  | .keyClear => mnemonic i
  | .keyChar c => mnemonic i ++ " 0x" ++ String.ofList [hexDigit (c.toNat / 16), hexDigit (c.toNat % 16)]
  | .keyCommit => mnemonic i
  | .keyWord idx => mnemonic i ++ " " ++ toString idx.toNat

/-- The host's rendering of a digest: byte 0 first, each byte's high nibble first, lower case (R88). -/
def renderDigest (d : Block) : String :=
  String.ofList (d.toList.flatMap fun b => [hexDigit (b.toNat / 16), hexDigit (b.toNat % 16)])

end Sys2Proof.Machine
end

