-- ==== Sys2Proof/Safety.lean ====
section
/-! DEFINITION. Safety.lean: the invariant of the machine, what a safe run and a finished run are, and the words the
statements use for what a step leaves alone. -/

namespace Sys2Proof.Machine

/-- Each row of a table is a permutation of 0..15: sixteen 4-bit entries, no two of them equal (R8, R25). -/
def rowsArePermutations (t : SBox) : Prop :=
  ∀ j : Fin 8, ∀ m n : Fin 16, t[j][m] = t[j][n] → m = n

/-- `t` differs from `s` at most in what is not the CORE's: what the host has to do, whose turns come, the last
answer of the bus, and the model's counter of free values. -/
def SameCore (s t : State) : Prop :=
  t = { s with hostQueue := t.hostQueue, turns := t.turns, reply := t.reply, freeIdx := t.freeIdx }

/-- The invariant of 10_state.md R27 and R39, with two clauses of the model's own: the ROM's rows are permutations
(R25), and while reset is held every state element has its reset value (R122). -/
structure Inv (s : State) : Prop where
  /-- "`RND = 0` whenever `JOB = NONE`" (R27). -/
  roundZeroWhenIdle : s.job = .none → s.rnd = 0
  /-- R39 (b). -/
  hashJobInAbsorb : s.job = .hblk ∨ s.job = .hfin → s.phase = .absorb
  /-- R39 (c). -/
  finalJobEmptiesBuf : s.job = .hfin → s.bufcnt = 0
  /-- R39 (d). -/
  keyCountBound : s.kcnt.toNat ≤ 65
  /-- R39 (e). -/
  bufEmptyOutsideAbsorb : s.phase ≠ .absorb → s.bufcnt = 0
  /-- R39 (f). -/
  keyedInAbsorb : s.phase = .absorb → s.keyv = true
  /-- R25. -/
  romRows : rowsArePermutations s.sbox
  /-- R122. -/
  heldIsReset : s.inReset = true → SameCore (platformReset true s) s

/-- The access's address lies in the window, so that it is the CORE's (R45). -/
def HostOp.inWindow (op : HostOp) : Bool :=
  match op with
  | .read off _ => Machine.inWindow off
  | .write off _ _ => Machine.inWindow off
  | .wait => true

/-- A safe state: every access the host has still to make is the CORE's. -/
def Safe (s : State) : Prop := s.hostQueue.all HostOp.inWindow = true

/-- A host program's run has ended: the host has made its last access and `BUSY = 0` (R132). -/
def Quiescent (s : State) : Prop := s.hostQueue = [] ∧ s.job = .none

/-- The coming turns are the host's and the engine's only: no reset happens. -/
def NoReset (s : State) : Prop := ∀ t ∈ s.turns, t = .host ∨ t = .engine

/-- The four commands that start a cipher job when they succeed; a HASH_BYTE does only with the eighth byte of a
block (R97, R99). -/
def startsJob (i : Instr) (s : State) : Prop :=
  match i with
  | .encrypt => s.keyv = true
  | .decrypt => s.keyv = true
  | .hashByte _ => s.phase = .absorb ∧ s.bufcnt = 7
  | .hashFinal => s.phase = .absorb
  | .nop => False
  | .clrStatus => False
  | .hashInit => False
  | .keyClear => False
  | .keyChar _ => False
  | .keyCommit => False
  | .keyWord _ => False

/-- The word the host writes to CMD in this step, where it does so and the word reaches the CORE while `BUSY = 0`: it
is then accepted (R97). -/
def acceptedWord (s : State) : Option Word :=
  if s.nextTurn = .host ∧ s.inReset = false ∧ s.job = .none then
    match s.hostQueue with
    | [] => none
    | .read _ _ :: _ => none
    | .write off n w :: _ => if off = 0x00 ∧ n = 4 then some w else none
    | .wait :: _ => none
  else none

/-- The words accepted in the next `n` steps, in order. -/
def acceptedWords (n : Nat) (s : State) : List Word :=
  match n with
  | 0 => []
  | k + 1 =>
    match step s with
    | .next t => (acceptedWord s).toList ++ acceptedWords k t
    | .fault _ => []
    | .refused _ => []

/-- The word `w` is accepted in this step. -/
def AcceptsWord (s : State) (w : Word) : Prop := acceptedWord s = some w

/-- The command `i` is accepted in this step (R97). -/
def Accepts (s : State) (i : Instr) : Prop := ∃ w, decode w = .ok i ∧ AcceptsWord s w

/-- A reset happens in this step (R122). -/
def ResetStep (s : State) : Prop := s.nextTurn = .reset ∨ s.nextTurn = .holdReset

/-- The engine completes the job `j` in this step (R74). -/
def CompletesJob (s : State) (j : Job) : Prop :=
  s.nextTurn = .engine ∧ s.inReset = false ∧ s.job = j ∧ s.rnd = 31

/-- Commands accepted one after another with nothing in between. -/
def execAll (is : List Instr) (s : State) : Host.Outcome State Fault Refusal :=
  match is with
  | [] => .next s
  | i :: rest =>
    match exec i s with
    | .next t => execAll rest t
    | .fault r => .fault r
    | .refused r => .refused r

/-- The commands that R87 lets stand between the commands of a hash. -/
def isFiller (i : Instr) : Bool :=
  match i with
  | .encrypt => true
  | .decrypt => true
  | .nop => true
  | .clrStatus => true
  | .hashInit => false
  | .hashByte _ => false
  | .hashFinal => false
  | .keyClear => false
  | .keyChar _ => false
  | .keyCommit => false
  | .keyWord _ => false

end Sys2Proof.Machine
end

