-- ==== Sys2Proof/Certificates/Slice0/Obligations.lean ====
section
/-! DEFINITION. Obligations.lean: the statements for the provers, in the order of the spec's files. "Idle" below is
`inReset = false` and `job = .none`: a command written then is accepted (43_control.md R97). -/

open Sys2Proof Sys2Proof.Machine

/-! ### Encoding (30_encoding.md) -/

/-- Decoding an encoded well-formed command gives it back, for every command and every operand (R58 to R63). -/
def Obligations.DecodeInvertsEncode : Prop :=
  ∀ i : Instr, i.wellFormed = true → decode (encode i) = .ok i

/-- A word that decodes gives a well-formed command whose encoding is that word: no two words decode alike, and no
bit of a legal word is ignored (R59, R62). -/
def Obligations.DecodedWordIsItsEncoding : Prop :=
  ∀ (w : Word) (i : Instr), decode w = .ok i → i.wellFormed = true ∧ encode i = w

/-- R61: a word that decodes selects exactly one row of the table, its command's; a word that does not decode
selects none. -/
def Obligations.DecodeSelectsUniqueTableRow : Prop :=
  ∀ w : Word,
    (∀ i, decode w = .ok i →
      ∃ row ∈ opcodeTable, row.selectedBy w = true ∧ row.name = mnemonic i ∧
        ∀ row' ∈ opcodeTable, row'.selectedBy w = true → row' = row) ∧
    (∀ e, decode w = .error e → ∀ row ∈ opcodeTable, row.selectedBy w = false)

/-- R62 and R107: a word is illegal exactly in the four cases, and an illegal word written to CMD while the CORE is
idle changes no state except `ERR <- ILLEGAL_COMMAND`. -/
def Obligations.IllegalWordOnlyReportsError : Prop :=
  ∀ w : Word,
    ((∃ e, decode w = .error e) ↔
      rsvField w ≠ 0 ∨
      opcField w ∉ ([0x00, 0x01, 0x10, 0x11, 0x20, 0x21, 0x22, 0x30, 0x31, 0x32, 0x33] : List Byte) ∨
      (opcField w ∈ ([0x00, 0x01, 0x10, 0x11, 0x20, 0x22, 0x30, 0x32] : List Byte) ∧ imm8Field w ≠ 0) ∨
      (opcField w = 0x33 ∧ (imm8Field w).extractLsb' 3 5 ≠ 0)) ∧
    ∀ (e : DecodeError) (s : State), decode w = .error e → s.inReset = false → s.job = .none →
      hostWrite 0x00 4 w s = .next { s with reply := .written, err := .illegalCommand }

/-- A sanity statement: words of 95_test_vectors.md section 6.1 decode as it says. -/
def Obligations.SampleWordsDecode : Prop :=
  decode 0x00000000 = .ok .nop ∧ decode 0x00000001 = .ok .clrStatus ∧
  decode 0x00000010 = .ok .encrypt ∧ decode 0x00000011 = .ok .decrypt ∧
  decode 0x00000020 = .ok .hashInit ∧ decode 0x0000FF21 = .ok (.hashByte 0xFF) ∧
  decode 0x00000022 = .ok .hashFinal ∧ decode 0x00000030 = .ok .keyClear ∧
  decode 0x00004131 = .ok (.keyChar 0x41) ∧ decode 0x00000032 = .ok .keyCommit ∧
  decode 0x00000733 = .ok (.keyWord 7) ∧
  decode 0x00000100 = .error .operandNotZero ∧ decode 0x00000002 = .error .reservedOpcode ∧
  decode 0x00010021 = .error .reservedBits ∧ decode 0x00000833 = .error .indexTooLarge

/-- A step runs the decoded command: when the host moves next and its next operation writes to CMD a word that
decodes to `i`, the step is `exec i` of the state with the turn and the operation gone and the write answered. With
the CORE busy `exec i` drops the command, as the write does (R97, R98). And `withFetchWord` puts a word there. -/
def Obligations.StepRunsDecodedCommand : Prop :=
  (∀ (s : State) (w : Word) (i : Instr) (rest : List HostOp),
    s.inReset = false → s.nextTurn = .host → s.hostQueue = .write 0x00 4 w :: rest → decode w = .ok i →
    step s = exec i { s with turns := s.turns.tail, hostQueue := rest, reply := .written }) ∧
  (∀ (s : State) (w : Word) (i : Instr), s.inReset = false → decode w = .ok i →
    decodeTableWord 32 w.toNat = some i ∧
    step (s.withFetchWord 32 w.toNat) = exec i { s with reply := .written })

/-! ### State and reset (10_state.md, 70_reset_and_hazards.md) -/

/-- R123: after a reset from any state every element has its reset value, the ROM is unchanged, and every register
of the window reads 0. -/
def Obligations.ResetGivesResetValues : Prop :=
  ∀ (s : State) (rest : List Turn), s.turns = .reset :: rest →
    ∃ t, step s = .next t ∧
      t.key = #v[0, 0, 0, 0, 0, 0, 0, 0] ∧ t.kmask = 0 ∧ t.keyv = false ∧
      t.kstage = #v[0, 0, 0, 0, 0, 0, 0, 0] ∧ t.kcnt = 0 ∧ t.kbad = false ∧ t.sbox = s.sbox ∧
      t.left = 0 ∧ t.right = 0 ∧ t.job = .none ∧ t.busy = false ∧ t.rnd = 0 ∧
      t.mblk = #v[0, 0, 0, 0, 0, 0, 0, 0] ∧ t.acc = #v[0, 0, 0, 0, 0, 0, 0, 0] ∧
      t.buf = #v[0, 0, 0, 0, 0, 0, 0, 0] ∧ t.bufcnt = 0 ∧ t.phase = .idle ∧ t.err = .ok ∧ t.ovr = false ∧
      t.data = 0 ∧ t.blkIn0 = 0 ∧ t.blkIn1 = 0 ∧ t.blkOut0 = 0 ∧ t.blkOut1 = 0 ∧
      ∀ r : WindowReg, readReg r t = 0

/-- R122: while reset is held the CORE takes no host access and no engine step. Whatever the host does in the
window, the CORE's state stays. THE MODEL'S CHOICES, marked DESIGN CHOICE in the log: that the access is answered with
a free value (log entry 5); that reset is held and released by turns of their own, the state elements taking the values
of R123 at the assertion and the release changing only the level of the input (log entry 21); and that the host's queue,
its last reply and the coming turns survive the reset (log entry 10). -/
def Obligations.HeldResetTakesNoAccess : Prop :=
  (∀ s : State, s.inReset = true → s.nextTurn = .engine → step s = .next { s with turns := s.turns.tail }) ∧
  (∀ (s : State) (off : Int) (n : Nat) (v : Word), s.inReset = true → 0 ≤ off → off ≤ 0xFF →
    hostRead off n s = .next { s with reply := Config.resetReply s.freeIdx, freeIdx := s.freeIdx + 1 } ∧
    hostWrite off n v s = .next { s with reply := Config.resetReply s.freeIdx, freeIdx := s.freeIdx + 1 }) ∧
  (∀ s : State, s.nextTurn = .holdReset → step s = .next {
    key := #v[0, 0, 0, 0, 0, 0, 0, 0], kmask := 0, kstage := #v[0, 0, 0, 0, 0, 0, 0, 0], kcnt := 0, kbad := false,
    sbox := s.sbox, left := 0, right := 0, job := .none, rnd := 0, mblk := #v[0, 0, 0, 0, 0, 0, 0, 0],
    acc := #v[0, 0, 0, 0, 0, 0, 0, 0], buf := #v[0, 0, 0, 0, 0, 0, 0, 0], bufcnt := 0, phase := .idle, data := 0,
    blkIn0 := 0, blkIn1 := 0, blkOut0 := 0, blkOut1 := 0, err := .ok, ovr := false, inReset := true,
    hostQueue := s.hostQueue, turns := s.turns.tail, reply := s.reply, freeIdx := s.freeIdx }) ∧
  (∀ s : State, s.nextTurn = .releaseReset → step s = .next { s with turns := s.turns.tail, inReset := false })

/-- The invariant holds right after reset (R27, R39, and R25 through the type of the parameter SBOX). -/
def Obligations.InvHoldsAtReset : Prop := Inv State.reset

/-- Every step of either agent, and every reset, keeps the invariant (R27, R39). -/
def Obligations.StepKeepsInv : Prop :=
  ∀ s t : State, Inv s → step s = .next t → Inv t

/-- R25: no command, bus access or reset changes the ROM. -/
def Obligations.RomNeverChanges : Prop :=
  ∀ s t : State, step s = .next t → t.sbox = s.sbox

/-- R20 and R21: KEY and KMASK change only when a KEY_COMMIT, a KEY_WORD or a KEY_CLEAR is accepted, or at reset;
and never while a hash is absorbing, except at reset (R109). -/
def Obligations.KeyWrittenOnlyByKeyCommands : Prop :=
  ∀ s t : State, step s = .next t → (t.key ≠ s.key ∨ t.kmask ≠ s.kmask) →
    ResetStep s ∨
    (s.phase ≠ .absorb ∧
      (Accepts s .keyCommit ∨ Accepts s .keyClear ∨ ∃ idx, Accepts s (.keyWord idx)))

/-- R28 and R34: ACC is written only by HASH_INIT and by the completion of an HBLK or HFIN job; BLK_OUT0 and BLK_OUT1
only by the completion of an ENC or DEC job; and both by reset. -/
def Obligations.ResultsWrittenOnlyByTheirJobs : Prop :=
  ∀ s t : State, step s = .next t →
    (t.acc ≠ s.acc → ResetStep s ∨ Accepts s .hashInit ∨ CompletesJob s .hblk ∨ CompletesJob s .hfin) ∧
    (t.blkOut0 ≠ s.blkOut0 ∨ t.blkOut1 ≠ s.blkOut1 → ResetStep s ∨ CompletesJob s .enc ∨ CompletesJob s .dec)

/-- R35: ERR is written by every accepted command word and, but for reset, by nothing else. For every accepted word
the new ERR does not depend on the old one. -/
def Obligations.ErrWrittenOnlyByAcceptedWords : Prop :=
  (∀ s t : State, step s = .next t → t.err ≠ s.err → ResetStep s ∨ ∃ w, AcceptsWord s w) ∧
  (∀ (s : State) (w : Word) (e : ErrCode), AcceptsWord s w →
    ∃ t, step s = .next t ∧ step { s with err := e } = .next t)

/-- R115: PHASE leaves ABSORB only when an HFIN job completes, to DONE, or at reset, to IDLE. -/
def Obligations.PhaseLeavesAbsorbOnlyAtEnd : Prop :=
  ∀ s t : State, step s = .next t → s.phase = .absorb → t.phase ≠ .absorb →
    (CompletesJob s .hfin ∧ t.phase = .done) ∨ (ResetStep s ∧ t.phase = .idle)

/-- R37: the fields of STATUS, reserved bits included; it reads 0 after reset, and a write to it is ignored. -/
def Obligations.StatusShowsItsFields : Prop :=
  State.reset.status = 0 ∧
  (∀ (s : State) (v : Word), s.inReset = false → hostWrite 0x04 4 v s = .next { s with reply := .written }) ∧
  ∀ s : State,
    s.status.extractLsb' 0 1 = (if s.job = .none then 0 else 1) ∧
    s.status.extractLsb' 1 1 = (if s.kmask = 0xFF then 1 else 0) ∧
    s.status.extractLsb' 2 2 = (match s.phase with | .idle => 0 | .absorb => 1 | .done => 2) ∧
    s.status.extractLsb' 4 1 = (if s.ovr then 1 else 0) ∧
    s.status.extractLsb' 5 3 = 0 ∧
    s.status.extractLsb' 8 4 =
      (match s.err with
        | .ok => 0 | .invalidKeyLength => 1 | .invalidKeyEncoding => 2 | .keyNotLoaded => 3
        | .illegalCommand => 4 | .hashNotActive => 5 | .keyLocked => 6) ∧
    s.status.extractLsb' 12 3 = s.bufcnt ∧
    s.status.extractLsb' 15 1 = 0 ∧
    s.status.extractLsb' 16 8 = s.kmask ∧
    s.status.extractLsb' 24 7 = s.kcnt ∧
    s.status.extractLsb' 31 1 = (if s.kbad then 1 else 0)

/-! ### The register window (20_memory.md) -/

/-- R42: an admitted read returns the register's content, computed from the state at the instant of the read, and
changes nothing: the content of each offset as the table of R41 gives it. -/
def Obligations.ReadReturnsRegisterContent : Prop :=
  ∀ s : State, s.inReset = false →
    hostRead 0x00 4 s = .next { s with reply := .data 0 } ∧
    hostRead 0x04 4 s = .next { s with reply := .data s.status } ∧
    hostRead 0x08 4 s = .next { s with reply := .data s.data } ∧
    hostRead 0x10 4 s = .next { s with reply := .data s.blkIn0 } ∧
    hostRead 0x14 4 s = .next { s with reply := .data s.blkIn1 } ∧
    hostRead 0x18 4 s = .next { s with reply := .data s.blkOut0 } ∧
    hostRead 0x1C 4 s = .next { s with reply := .data s.blkOut1 } ∧
    hostRead 0x20 4 s = .next { s with reply := .data (le32 s.acc[0] s.acc[1] s.acc[2] s.acc[3]) } ∧
    hostRead 0x24 4 s = .next { s with reply := .data (le32 s.acc[4] s.acc[5] s.acc[6] s.acc[7]) } ∧
    (∀ i : Fin 8, hostRead (0x40 + 4 * (i.val : Int)) 4 s = .next { s with reply := .data s.key[i] }) ∧
    (∀ off : Int, off % 4 = 0 → off = 0x0C ∨ (0x28 ≤ off ∧ off ≤ 0x3C) ∨ (0x60 ≤ off ∧ off ≤ 0xFC) →
      hostRead off 4 s = .next { s with reply := .data 0 })

/-- R43: the admitted writes. DATA, BLK_IN0 and BLK_IN1 take a write at any time, and it never affects a job already
started; CMD drops the word while busy and runs it otherwise; every other offset ignores it. -/
def Obligations.WriteFollowsRegisterMap : Prop :=
  ∀ (s : State) (v : Word), s.inReset = false →
    hostWrite 0x08 4 v s = .next { s with reply := .written, data := v } ∧
    hostWrite 0x10 4 v s = .next { s with reply := .written, blkIn0 := v } ∧
    hostWrite 0x14 4 v s = .next { s with reply := .written, blkIn1 := v } ∧
    (∀ off : Int, 0 ≤ off → off ≤ 0xFC → off % 4 = 0 → off ≠ 0x00 → off ≠ 0x08 → off ≠ 0x10 → off ≠ 0x14 →
      hostWrite off 4 v s = .next { s with reply := .written }) ∧
    (s.job ≠ .none → hostWrite 0x00 4 v s = .next { s with reply := .written, ovr := true }) ∧
    (∀ i, s.job = .none → decode v = .ok i →
      hostWrite 0x00 4 v s = exec i { s with reply := .written }) ∧
    (∀ e, s.job = .none → decode v = .error e →
      hostWrite 0x00 4 v s = .next { s with reply := .written, err := .illegalCommand }) ∧
    (∀ n : Nat,
      engineStep^[n] { s with data := v } = { engineStep^[n] s with data := v } ∧
      engineStep^[n] { s with blkIn0 := v } = { engineStep^[n] s with blkIn0 := v } ∧
      engineStep^[n] { s with blkIn1 := v } = { engineStep^[n] s with blkIn1 := v })

/-- R44 and R112: an access to the window with a size other than 4 or a misaligned address has no effect on the
CORE and ends with BusError, which carries the access address. -/
def Obligations.RefusedAccessRaisesBusError : Prop :=
  ∀ (s : State) (off : Int) (n : Nat) (v : Word), s.inReset = false → 0 ≤ off → off ≤ 0xFF →
    (n ≠ 4 ∨ off % 4 ≠ 0) →
    hostRead off n s = .next { s with reply := .busError (Config.base + off) } ∧
    hostWrite off n v s = .next { s with reply := .busError (Config.base + off) }

/-- R111: BusError is raised for a refused access and for nothing else: no command and no engine step raises it. -/
def Obligations.BusErrorOnlyForRefusedAccess : Prop :=
  ∀ (s t : State) (a : Int), s.inReset = false → step s = .next t → t.reply = .busError a → s.reply ≠ .busError a →
    ∃ (off : Int) (n : Nat) (rest : List HostOp), a = Config.base + off ∧ (n ≠ 4 ∨ off % 4 ≠ 0) ∧
      (s.hostQueue = .read off n :: rest ∨ ∃ v, s.hostQueue = .write off n v :: rest)

/-- No step is refused, and a step faults exactly when the host's next operation lies outside the window (R45; that
such an access stops the model is its own choice, log entry 6). -/
def Obligations.OnlyForeignAccessStops : Prop :=
  ∀ s : State,
    (∀ r, step s ≠ .refused r) ∧
    (∀ r, step s = .fault r ↔
      s.nextTurn = .host ∧ ∃ op rest off, s.hostQueue = op :: rest ∧ r = .outsideWindow off ∧
        (off < 0 ∨ 0xFF < off) ∧ ((∃ n, op = .read off n) ∨ ∃ n v, op = .write off n v))

/-- A run whose host stays inside the window never stops: for any number of steps, under any turns, resets
included. -/
def Obligations.SafeRunNeverStops : Prop :=
  ∀ (n : Nat) (s : State), Safe s → ∃ t, core.run n s = .next t ∧ Safe t

/-- R50: a host that reads DIG0 and DIG1 recovers `ACC[k]` as byte `k mod 4`, least significant first, of the
register `k div 4`. -/
def Obligations.DigestRegistersPackAcc : Prop :=
  ∀ (s : State) (k : Fin 8),
    (readReg (if k.val / 4 = 0 then .dig0 else .dig1) s).extractLsb' (8 * (k.val % 4)) 8 = s.acc[k]

/-- R17 and R43: while a job runs, a host write and an engine step can change places: the state after both is the same,
and the bus answers alike. The one exception is a write to CMD at the completing step (R113), which the hypothesis
leaves out and CompletionOrderDecidesDrop states. -/
def Obligations.HostWriteCommutesWithEngineStep : Prop :=
  ∀ (s t : State) (off : Int) (n : Nat) (v : Word), s.inReset = false → s.job ≠ .none →
    (off = 0 → n = 4 → s.rnd ≠ 31) → hostWrite off n v s = .next t →
    hostWrite off n v (engineStep s) = .next (engineStep t)

/-- R113: a CMD write at the instant of the completing engine step is dropped if it comes first and accepted if it
comes after. -/
def Obligations.CompletionOrderDecidesDrop : Prop :=
  ∀ (s : State) (w : Word) (i : Instr), s.inReset = false → s.job ≠ .none → s.rnd = 31 → decode w = .ok i →
    hostWrite 0x00 4 w s = .next { s with reply := .written, ovr := true } ∧
    (engineStep { s with reply := .written, ovr := true }).job = .none ∧
    (engineStep { s with reply := .written, ovr := true }).ovr = true ∧
    (engineStep s).job = .none ∧
    hostWrite 0x00 4 w (engineStep s) = exec i { engineStep s with reply := .written }

/-! ### The cipher (40_cipher.md) -/

/-- R65: lane `j` of `S(x)` is row `j` at nibble `j`; S is a bijection when every row is a permutation; under the
identity table `S(x) = x`. -/
def Obligations.SubstitutionActsByLanes : Prop :=
  (∀ (t : SBox) (x : Word) (j : Fin 8), nibbleOf (subst t x) j = t[j][(nibbleOf x j).toNat]) ∧
  (∀ t : SBox, rowsArePermutations t → Function.Bijective (subst t)) ∧
  (∀ (t : SBox) (x : Word), (∀ (j : Fin 8) (n : Fin 16), t[j][n] = BitVec.ofFin n) → subst t x = x)

/-- R66: `G` adds modulo 2^32, substitutes, and rotates left by 11: bit `i` of the substituted sum is bit
`(i + 11) mod 32` of the result; with the corner cases and the identity table's example. -/
def Obligations.RoundFunctionAddsSubstitutesRotates : Prop :=
  ∀ (t : SBox) (x k : Word),
    (∀ i : Nat, i < 32 →
      (roundFn t x k).getLsbD ((i + 11) % 32) =
        (subst t (BitVec.ofNat 32 ((x.toNat + k.toNat) % 2 ^ 32))).getLsbD i) ∧
    ((∀ (j : Fin 8) (n : Fin 16), t[j][n] = BitVec.ofFin n) → roundFn t 0x12345678 0 = 0xA2B3C091) ∧
    roundFn t 0xFFFFFFFF 1 = roundFn t 0 0 ∧ roundFn t 0x80000000 0x80000000 = roundFn t 0 0 ∧
    rol32 0x80000000 11 = 0x00000400 ∧ rol32 0x00100000 11 = 0x80000000

/-- R67 and R68: the two key schedules in full, and the one is the other reversed. -/
def Obligations.KeySchedulesAreReversed : Prop :=
  (List.range 32).map ksEnc =
    [0, 1, 2, 3, 4, 5, 6, 7, 0, 1, 2, 3, 4, 5, 6, 7, 0, 1, 2, 3, 4, 5, 6, 7, 7, 6, 5, 4, 3, 2, 1, 0] ∧
  (List.range 32).map ksDec =
    [0, 1, 2, 3, 4, 5, 6, 7, 7, 6, 5, 4, 3, 2, 1, 0, 7, 6, 5, 4, 3, 2, 1, 0, 7, 6, 5, 4, 3, 2, 1, 0] ∧
  ∀ i : Fin 32, ksDec i = ksEnc (31 - i)

/-- R72: Decrypt undoes Encrypt and Encrypt undoes Decrypt, for every block, every key and every table. -/
def Obligations.DecryptInvertsEncrypt : Prop :=
  ∀ (t : SBox) (key : KeyWords) (b : Block),
    decryptBlock t key (encryptBlock t key b) = b ∧ encryptBlock t key (decryptBlock t key b) = b

/-- R73: under a symmetric key Encrypt and Decrypt agree, and enciphering twice gives the block back. -/
def Obligations.SymmetricKeyMakesCipherInvolution : Prop :=
  ∀ (t : SBox) (key : KeyWords), (∀ i : Fin 8, key[i] = key[7 - i.val]) → ∀ b : Block,
    encryptBlock t key b = decryptBlock t key b ∧ encryptBlock t key (encryptBlock t key b) = b

/-- R74: the engine's turn while a job runs. Rounds 0 to 30 write L, R and RND and nothing else; round 31 writes R,
ends the job, and writes its results in that same step. Without a job the turn changes nothing. -/
def Obligations.EngineStepRunsOneRound : Prop :=
  ∀ (s : State) (rest : List Turn), s.inReset = false → s.turns = .engine :: rest →
    let k := if s.job = .dec then s.key[ksDec s.rnd.toNat] else s.key[ksEnc s.rnd.toNat]
    let temp := rol32 (subst s.sbox (s.left + k)) 11 ^^^ s.right
    let out := blk s.left temp
    (s.job = .none → step s = .next { s with turns := rest }) ∧
    (s.job ≠ .none → s.rnd.toNat < 31 →
      step s = .next { s with turns := rest, left := temp, right := s.left, rnd := s.rnd + 1 }) ∧
    (s.job = .enc ∨ s.job = .dec → s.rnd = 31 →
      step s = .next { s with
        turns := rest, right := temp, rnd := 0, job := .none, blkOut0 := word0 out, blkOut1 := word1 out }) ∧
    (s.job = .hblk → s.rnd = 31 →
      step s = .next { s with
        turns := rest, right := temp, rnd := 0, job := .none, acc := fold s.acc out s.mblk }) ∧
    (s.job = .hfin → s.rnd = 31 →
      step s = .next { s with
        turns := rest, right := temp, rnd := 0, job := .none, acc := fold s.acc out s.mblk, phase := .done })

/-- R74: a job takes exactly 32 engine steps from its start; before the last one it changes L, R and RND only; and
the value it completes with is the 32-round network's on the start block. -/
def Obligations.JobComputesCrypt : Prop :=
  ∀ s : State, s.job ≠ .none → s.rnd = 0 →
    (∀ n : Nat, n < 32 → ∃ l r : Word,
      engineStep^[n] s = { s with left := l, right := r, rnd := BitVec.ofNat 5 n }) ∧
    let out := crypt s.sbox s.key (if s.job = .dec then ksDec else ksEnc) (blk s.left s.right)
    let t := { s with left := word0 out, right := word1 out, rnd := 0, job := .none }
    engineStep^[32] s =
      match s.job with
      | .none => s
      | .enc => { t with blkOut0 := word0 out, blkOut1 := word1 out }
      | .dec => { t with blkOut0 := word0 out, blkOut1 := word1 out }
      | .hblk => { t with acc := fold s.acc out s.mblk }
      | .hfin => { t with acc := fold s.acc out s.mblk, phase := .done }

/-- R75: ENCRYPT. Without a key it reports KEY_NOT_LOADED and changes nothing else; with one it latches the block,
starts an ENC job and reports OK; BLK_OUT keeps its values until the job's 32nd engine step writes the enciphered
block, whatever is in BLK_IN by then. It is allowed in every PHASE. -/
def Obligations.EncryptEnciphersInputBlock : Prop :=
  encode .encrypt = 0x00000010 ∧
  ∀ s : State, s.inReset = false → s.job = .none →
    (s.kmask ≠ 0xFF → exec .encrypt s = .next { s with err := .keyNotLoaded }) ∧
    (s.kmask = 0xFF → ∃ t, exec .encrypt s = .next t ∧
      t = { s with left := s.blkIn0, right := s.blkIn1, rnd := 0, job := .enc, err := .ok } ∧
      (∀ n, n < 32 → (engineStep^[n] t).busy = true ∧
        (engineStep^[n] t).blkOut0 = s.blkOut0 ∧ (engineStep^[n] t).blkOut1 = s.blkOut1) ∧
      let out := encryptBlock s.sbox s.key (blk s.blkIn0 s.blkIn1)
      ∀ v w : Word, engineStep^[32] { t with blkIn0 := v, blkIn1 := w } =
        { s with left := word0 out, right := word1 out, rnd := 0, blkOut0 := word0 out, blkOut1 := word1 out,
                 blkIn0 := v, blkIn1 := w, err := .ok })

/-- R76: DECRYPT, as ENCRYPT with a DEC job, whose completion writes the deciphered block. -/
def Obligations.DecryptDeciphersInputBlock : Prop :=
  encode .decrypt = 0x00000011 ∧
  ∀ s : State, s.inReset = false → s.job = .none →
    (s.kmask ≠ 0xFF → exec .decrypt s = .next { s with err := .keyNotLoaded }) ∧
    (s.kmask = 0xFF → ∃ t, exec .decrypt s = .next t ∧
      t = { s with left := s.blkIn0, right := s.blkIn1, rnd := 0, job := .dec, err := .ok } ∧
      (∀ n, n < 32 → (engineStep^[n] t).busy = true ∧
        (engineStep^[n] t).blkOut0 = s.blkOut0 ∧ (engineStep^[n] t).blkOut1 = s.blkOut1) ∧
      let out := decryptBlock s.sbox s.key (blk s.blkIn0 s.blkIn1)
      ∀ v w : Word, engineStep^[32] { t with blkIn0 := v, blkIn1 := w } =
        { s with left := word0 out, right := word1 out, rnd := 0, blkOut0 := word0 out, blkOut1 := word1 out,
                 blkIn0 := v, blkIn1 := w, err := .ok })

/-! ### The digest (41_digest.md) -/

/-- R79: padding gives whole blocks, always lengthens, by 1 to 8 bytes, each equal to the padding length. -/
def Obligations.PaddingGivesWholeBlocks : Prop :=
  (∀ m : List Byte, (pad m).length % 8 = 0 ∧ (pad m).length > m.length ∧
    ∃ p, 1 ≤ p ∧ p ≤ 8 ∧ (pad m).length = m.length + p ∧ (pad m).take m.length = m ∧
      ∀ b ∈ (pad m).drop m.length, b = BitVec.ofNat 8 p) ∧
  pad [] = [8, 8, 8, 8, 8, 8, 8, 8] ∧
  pad [0x61, 0x62, 0x63] = [0x61, 0x62, 0x63, 5, 5, 5, 5, 5] ∧
  pad [0x31, 0x32, 0x33, 0x34, 0x35, 0x36, 0x37] = [0x31, 0x32, 0x33, 0x34, 0x35, 0x36, 0x37, 1]

/-- R82: the digest is the exclusive OR of a per-block term that does not depend on the accumulator, and the four
laws that follow. -/
def Obligations.DigestIsXorOfBlockTerms : Prop :=
  ∀ (t : SBox) (key : KeyWords),
    let term := fun b : Block => xorBlock (encryptBlock t key b) b
    (∀ m : List Byte, hash t key m =
      ((List.range ((pad m).length / 8)).map fun b => term (blockAt (pad m) b)).foldl xorBlock (repBlock 0)) ∧
    hash t key [] = term (repBlock 8) ∧
    (∀ a b : List Byte, a.length % 8 = 0 →
      hash t key (a ++ b) = xorBlock (xorBlock (hash t key a) (hash t key [])) (hash t key b)) ∧
    (∀ p a q b c : List Byte, p.length % 8 = 0 → q.length % 8 = 0 → a.length = 8 → b.length = 8 →
      hash t key (p ++ a ++ q ++ b ++ c) = hash t key (p ++ b ++ q ++ a ++ c)) ∧
    (∀ a b : List Byte, a.length = 8 → hash t key (a ++ a ++ b) = hash t key b)

/-- R83: the digest of the empty message, as a function and on the hardware: HASH_INIT immediately followed by
HASH_FINAL. -/
def Obligations.EmptyMessageDigest : Prop :=
  (∀ (t : SBox) (key : KeyWords),
    hash t key [] = xorBlock (encryptBlock t key (repBlock 8)) (repBlock 8)) ∧
  ∀ s : State, s.inReset = false → s.job = .none → s.kmask = 0xFF →
    ∃ t, execAll [.hashInit, .hashFinal] s = .next t ∧
      (engineStep^[32] t).acc = hash s.sbox s.key [] ∧ (engineStep^[32] t).phase = .done ∧
      (engineStep^[32] t).job = .none

/-- R84: HASH_INIT. Without a key it reports KEY_NOT_LOADED and changes nothing else; with one it zeroes ACC and BUF
and starts absorbing, in every PHASE. -/
def Obligations.HashInitStartsHash : Prop :=
  encode .hashInit = 0x00000020 ∧
  ∀ s : State, s.inReset = false → s.job = .none →
    (s.kmask ≠ 0xFF → exec .hashInit s = .next { s with err := .keyNotLoaded }) ∧
    (s.kmask = 0xFF → ∃ t, exec .hashInit s = .next t ∧
      t = { s with
        acc := #v[0, 0, 0, 0, 0, 0, 0, 0], buf := #v[0, 0, 0, 0, 0, 0, 0, 0], bufcnt := 0, phase := .absorb,
        err := .ok } ∧
      t.busy = false ∧ readReg .dig0 t = 0 ∧ readReg .dig1 t = 0)

/-- R85: HASH_BYTE. Outside ABSORB it reports HASH_NOT_ACTIVE and changes nothing else; a byte that does not fill the
block is buffered; the eighth starts an HBLK job on the block, whose completion folds it into ACC, and a HASH_BYTE
written while that job runs is dropped. -/
def Obligations.HashByteAbsorbsByte : Prop :=
  ∀ b : Byte, encode (.hashByte b) = 0x00000021 ||| (b.setWidth 32 <<< 8) ∧
  ∀ s : State, s.inReset = false → s.job = .none →
    (s.phase ≠ .absorb → exec (.hashByte b) s = .next { s with err := .hashNotActive }) ∧
    (s.phase = .absorb → s.bufcnt.toNat < 7 →
      exec (.hashByte b) s =
        .next { s with buf := s.buf.set s.bufcnt.toNat b s.bufcnt.isLt, bufcnt := s.bufcnt + 1, err := .ok }) ∧
    (s.phase = .absorb → s.bufcnt = 7 →
      let b2 := s.buf.set 7 b
      let t := { s with
        buf := b2, mblk := b2, left := word0 b2, right := word1 b2, rnd := 0, job := .hblk, bufcnt := 0,
        err := .ok }
      exec (.hashByte b) s = .next t ∧
      (engineStep^[32] t).acc = fold s.acc (encryptBlock s.sbox s.key b2) b2 ∧
      (engineStep^[32] t).job = .none ∧
      ∀ n, n < 32 → ∀ c : Byte, exec (.hashByte c) (engineStep^[n] t) =
        .next { engineStep^[n] t with ovr := true })

/-- R86: HASH_FINAL. Outside ABSORB it reports HASH_NOT_ACTIVE and changes nothing else; in ABSORB it starts an HFIN
job on the padded block; PHASE stays ABSORB until the completing step, which folds and sets DONE. -/
def Obligations.HashFinalPadsAndFinishes : Prop :=
  encode .hashFinal = 0x00000022 ∧
  ∀ s : State, s.inReset = false → s.job = .none →
    (s.phase ≠ .absorb → exec .hashFinal s = .next { s with err := .hashNotActive }) ∧
    (s.phase = .absorb → ∀ m : Block,
      m.toList = s.buf.toList.take s.bufcnt.toNat ++
        List.replicate (8 - s.bufcnt.toNat) (BitVec.ofNat 8 (8 - s.bufcnt.toNat)) →
      let t := { s with
        mblk := m, left := word0 m, right := word1 m, rnd := 0, job := .hfin, bufcnt := 0, err := .ok }
      exec .hashFinal s = .next t ∧
      (∀ n, n < 32 → (engineStep^[n] t).busy = true ∧ (engineStep^[n] t).phase = .absorb) ∧
      (engineStep^[32] t).acc = fold s.acc (encryptBlock s.sbox s.key m) m ∧
      (engineStep^[32] t).phase = .done ∧ (engineStep^[32] t).job = .none)

/-- R87: from a state with `BUSY = 0` and `KEYV = 1`, whatever the host does and however host and engine interleave:
when the command words accepted are HASH_INIT, one HASH_BYTE for each byte of `m` and HASH_FINAL, in this order, with
any ENCRYPT, DECRYPT, NOP and CLR_STATUS among them and no reset, then once `BUSY = 0` again PHASE is DONE and ACC is
`Hash(m, KEY)`. A word that is dropped is not accepted, so its byte is no part of `m`. -/
def Obligations.AcceptedHashComputesDigest : Prop :=
  ∀ (s t : State) (n : Nat) (m : List Byte) (cmds : List Instr),
    s.inReset = false → s.job = .none → s.keyv = true → NoReset s →
    core.run n s = .next t → (acceptedWords n s).map decode = cmds.map Except.ok →
    cmds.filter (fun i => !isFiller i) = .hashInit :: (m.map .hashByte ++ [.hashFinal]) →
    t.job = .none →
    t.phase = .done ∧ t.acc = hash s.sbox s.key m ∧ t.key = s.key

/-- The host program HASH_MSG of R64, with any of the four filler commands among its own, each command followed by
WAIT, runs to its end under every interleaving of host and engine: the turns are any finite list, then the fair
schedule (R131; log entry 3). Nothing is dropped, and the digest is right. -/
def Obligations.HashProgramTerminatesWithDigest : Prop :=
  ∀ (s : State) (m : List Byte) (cmds : List Instr),
    cmds.filter (fun i => !isFiller i) = .hashInit :: (m.map .hashByte ++ [.hashFinal]) →
    s.hostQueue = cmds.flatMap issue → s.inReset = false → s.job = .none → s.keyv = true → NoReset s →
    s.ovr = false →
    ∃ N, ∀ n, N ≤ n → ∃ t, core.run n s = .next t ∧ Quiescent t ∧ t.phase = .done ∧
      t.acc = hash s.sbox s.key m ∧ t.err = .ok ∧ t.ovr = false

/-! ### Key setup (42_parameter_setup.md) -/

/-- R90: the hexadecimal digits in either case decode to their values, and every other byte is INVALID. -/
def Obligations.HexvalDecodesDigits : Prop :=
  (∀ d : Nat, d < 10 → hexval (BitVec.ofNat 8 (0x30 + d)) = some (BitVec.ofNat 4 d)) ∧
  (∀ d : Nat, d < 6 → hexval (BitVec.ofNat 8 (0x41 + d)) = some (BitVec.ofNat 4 (10 + d)) ∧
    hexval (BitVec.ofNat 8 (0x61 + d)) = some (BitVec.ofNat 4 (10 + d))) ∧
  (∀ c : Byte, ¬ (0x30 ≤ c.toNat ∧ c.toNat ≤ 0x39) → ¬ (0x41 ≤ c.toNat ∧ c.toNat ≤ 0x46) →
    ¬ (0x61 ≤ c.toNat ∧ c.toNat ≤ 0x66) → hexval c = none)

/-- R92: the loader computes ParseKey. For every string, KEY_CLEAR, a KEY_CHAR for each character and KEY_COMMIT, each
accepted, end with the parsed key and OK, or with the condition's code and no usable key. -/
def Obligations.KeyLoaderComputesParseKey : Prop :=
  ∀ (s : State) (str : List Byte), s.inReset = false → s.job = .none → s.phase ≠ .absorb →
    ∃ t, execAll (.keyClear :: (str.map .keyChar ++ [.keyCommit])) s = .next t ∧
      (∀ key, parseKey str = .ok key → t.err = .ok ∧ t.keyv = true ∧ t.key = key) ∧
      (parseKey str = .error .invalidKeyLength → t.err = .invalidKeyLength ∧ t.keyv = false) ∧
      (parseKey str = .error .invalidKeyEncoding → t.err = .invalidKeyEncoding ∧ t.keyv = false)

/-- R91: what ParseKey answers: the length check comes before the encoding check, and digit `j` of group `i` is nibble
`7 - j` of key word `i`. -/
def Obligations.ParseKeyReadsGroups : Prop :=
  ∀ str : List Byte,
    (parseKey str = .error .invalidKeyLength ↔ str.length ≠ 64) ∧
    (parseKey str = .error .invalidKeyEncoding ↔ str.length = 64 ∧ ∃ c ∈ str, hexval c = none) ∧
    (∀ key, parseKey str = .ok key → ∀ i j : Fin 8,
      (str[8 * i.val + j.val]?).bind hexval = some (nibbleOf key[i] (7 - j.val)))

/-- R93: KEY_CLEAR, in IDLE and DONE, clears KEY, KMASK and the loader; in ABSORB it reports KEY_LOCKED and changes
nothing else. After it ENCRYPT reports KEY_NOT_LOADED. -/
def Obligations.KeyClearDiscardsKey : Prop :=
  encode .keyClear = 0x00000030 ∧
  ∀ s : State, s.inReset = false → s.job = .none →
    (s.phase = .absorb → exec .keyClear s = .next { s with err := .keyLocked }) ∧
    (s.phase ≠ .absorb → ∃ t, exec .keyClear s = .next t ∧
      t = { s with
        key := #v[0, 0, 0, 0, 0, 0, 0, 0], kstage := #v[0, 0, 0, 0, 0, 0, 0, 0], kmask := 0, kcnt := 0,
        kbad := false, err := .ok } ∧
      t.keyv = false ∧ exec .encrypt t = .next { t with err := .keyNotLoaded })

/-- R94: KEY_CHAR. In ABSORB it reports KEY_LOCKED and changes nothing else. Otherwise it always reports OK and counts
the character, to 65; a character that is no hexadecimal digit sets KBAD and stores nothing; one of the first 64
digits `n` becomes nibble `7 - (n mod 8)` of staging word `n div 8` and leaves every other nibble; a later digit
is not stored. -/
def Obligations.KeyCharStagesDigit : Prop :=
  ∀ c : Byte, encode (.keyChar c) = 0x00000031 ||| (c.setWidth 32 <<< 8) ∧
  ∀ s : State, s.inReset = false → s.job = .none →
    (s.phase = .absorb → exec (.keyChar c) s = .next { s with err := .keyLocked }) ∧
    (s.phase ≠ .absorb → ∃ (t : State) (ks : KeyWords), exec (.keyChar c) s = .next t ∧
      t = { s with
        kstage := ks, kcnt := t.kcnt, kbad := s.kbad || (hexval c).isNone, err := .ok } ∧
      t.kcnt.toNat = min (s.kcnt.toNat + 1) 65 ∧
      (∀ v, hexval c = some v → s.kcnt.toNat < 64 → ∀ i p : Fin 8,
        nibbleOf ks[i] p =
          if i.val = s.kcnt.toNat / 8 ∧ p.val = 7 - s.kcnt.toNat % 8 then v else nibbleOf s.kstage[i] p) ∧
      (hexval c = none ∨ 64 ≤ s.kcnt.toNat → ks = s.kstage))

/-- R95: KEY_COMMIT. In ABSORB it reports KEY_LOCKED and changes nothing else. Otherwise the length is checked first,
then the encoding; a failed commit clears KMASK and keeps KEY; a good one loads the staged words; the loader is
empty afterwards in each case. -/
def Obligations.KeyCommitValidatesAndLoads : Prop :=
  encode .keyCommit = 0x00000032 ∧
  ∀ s : State, s.inReset = false → s.job = .none →
    (s.phase = .absorb → exec .keyCommit s = .next { s with err := .keyLocked }) ∧
    (s.phase ≠ .absorb → s.kcnt ≠ 64 → exec .keyCommit s =
      .next { s with kmask := 0, err := .invalidKeyLength, kstage := #v[0, 0, 0, 0, 0, 0, 0, 0], kcnt := 0,
                     kbad := false }) ∧
    (s.phase ≠ .absorb → s.kcnt = 64 → s.kbad = true → exec .keyCommit s =
      .next { s with kmask := 0, err := .invalidKeyEncoding, kstage := #v[0, 0, 0, 0, 0, 0, 0, 0], kcnt := 0,
                     kbad := false }) ∧
    (s.phase ≠ .absorb → s.kcnt = 64 → s.kbad = false → exec .keyCommit s =
      .next { s with key := s.kstage, kmask := 0xFF, err := .ok, kstage := #v[0, 0, 0, 0, 0, 0, 0, 0], kcnt := 0,
                     kbad := false })

/-- R96: KEY_WORD. In ABSORB it reports KEY_LOCKED and changes nothing else; otherwise it loads DATA into the word its
index names and sets that bit of KMASK, so that KEYV is 1 once all eight are set. Bits [15:11] of its word must be 0:
with an index above 7 the word is illegal. -/
def Obligations.KeyWordLoadsData : Prop :=
  ∀ idx : Byte, encode (.keyWord idx) = 0x00000033 ||| (idx.setWidth 32 <<< 8) ∧
  ∀ s : State, s.inReset = false → s.job = .none →
    (∀ h : idx.toNat < 8,
      (s.phase = .absorb → exec (.keyWord idx) s = .next { s with err := .keyLocked }) ∧
      (s.phase ≠ .absorb → ∃ t, exec (.keyWord idx) s = .next t ∧
        t = { s with key := s.key.set idx.toNat s.data h, kmask := t.kmask, err := .ok } ∧
        (∀ i : Nat, t.kmask.getLsbD i = (s.kmask.getLsbD i || decide (i = idx.toNat))) ∧
        (t.keyv = true ↔ ∀ i : Nat, i < 8 → i = idx.toNat ∨ s.kmask.getLsbD i = true))) ∧
    (8 ≤ idx.toNat → ∃ e, decode (encode (.keyWord idx)) = .error e)

/-! ### Acceptance, control and errors (43_control.md, 60_exceptions.md) -/

/-- R98 and R36: every command word written while `BUSY = 1` is dropped: OVR is set and nothing else changes. Nothing
else sets OVR, and it stays 1 until CLR_STATUS is accepted or a reset. -/
def Obligations.BusyCommandIsDropped : Prop :=
  (∀ (s : State) (w : Word), s.inReset = false → s.job ≠ .none →
    hostWrite 0x00 4 w s = .next { s with reply := .written, ovr := true }) ∧
  (∀ (s : State) (i : Instr), s.inReset = false → s.job ≠ .none → exec i s = .next { s with ovr := true }) ∧
  ∀ s t : State, step s = .next t →
    (s.ovr = false → t.ovr = true →
      s.nextTurn = .host ∧ s.job ≠ .none ∧ ∃ w rest, s.hostQueue = .write 0x00 4 w :: rest) ∧
    (s.ovr = true → t.ovr = false → ResetStep s ∨ Accepts s .clrStatus)

/-- R100: NOP reports OK and changes nothing else, so that STATUS differs in ERR alone; with `BUSY = 1` it is dropped;
a word with OPC 0x00 and any other bit set is illegal. -/
def Obligations.NopReportsOk : Prop :=
  encode .nop = 0x00000000 ∧
  (∀ s : State, s.inReset = false → s.job = .none → ∃ t, exec .nop s = .next t ∧ t = { s with err := .ok } ∧
    t.status = s.status &&& 0xFFFFF0FF) ∧
  (∀ s : State, s.inReset = false → s.job ≠ .none → exec .nop s = .next { s with ovr := true }) ∧
  (∀ w : Word, opcField w = 0x00 → w ≠ 0 → ∃ e, decode w = .error e)

/-- R101: CLR_STATUS clears OVR and ERR and changes nothing else; with `BUSY = 1` it is dropped and OVR is set. -/
def Obligations.ClrStatusClearsOvrAndErr : Prop :=
  encode .clrStatus = 0x00000001 ∧
  (∀ s : State, s.inReset = false → s.job = .none →
    ∃ t, exec .clrStatus s = .next t ∧ t = { s with ovr := false, err := .ok } ∧
      t.status = s.status &&& 0xFFFFF0EF) ∧
  (∀ s : State, s.inReset = false → s.job ≠ .none → exec .clrStatus s = .next { s with ovr := true })

/-- R97 and R99: an accepted command leaves `BUSY = 1` exactly when it is one of the four that start a job and its
checks pass; every other one completes within its acceptance and leaves `BUSY = 0`. -/
def Obligations.AcceptedCommandStartsJobOrCompletes : Prop :=
  ∀ (s : State) (i : Instr), s.inReset = false → s.job = .none →
    ∃ t, exec i s = .next t ∧ (t.busy = true ↔ startsJob i s)

/-- R99 with R110 and R102: the code each accepted command reports, its checks made in the table's order, and the job it
leaves in progress; an illegal word is reported before any of them. -/
def Obligations.CommandsFollowCheckTable : Prop :=
  (∀ (s : State) (i : Instr), s.inReset = false → s.job = .none → i.wellFormed = true →
    ∃ t, exec i s = .next t ∧
      t.err = (match i with
        | .nop => .ok
        | .clrStatus => .ok
        | .encrypt => if s.keyv then .ok else .keyNotLoaded
        | .decrypt => if s.keyv then .ok else .keyNotLoaded
        | .hashInit => if s.keyv then .ok else .keyNotLoaded
        | .hashByte _ => if s.phase = .absorb then .ok else .hashNotActive
        | .hashFinal => if s.phase = .absorb then .ok else .hashNotActive
        | .keyClear => if s.phase = .absorb then .keyLocked else .ok
        | .keyChar _ => if s.phase = .absorb then .keyLocked else .ok
        | .keyCommit =>
          if s.phase = .absorb then .keyLocked
          else if s.kcnt ≠ 64 then .invalidKeyLength
          else if s.kbad then .invalidKeyEncoding
          else .ok
        | .keyWord _ => if s.phase = .absorb then .keyLocked else .ok) ∧
      t.job = (match i with
        | .nop => .none
        | .clrStatus => .none
        | .encrypt => if s.keyv then .enc else .none
        | .decrypt => if s.keyv then .dec else .none
        | .hashInit => .none
        | .hashByte _ => if s.phase = .absorb ∧ s.bufcnt = 7 then .hblk else .none
        | .hashFinal => if s.phase = .absorb then .hfin else .none
        | .keyClear => .none
        | .keyChar _ => .none
        | .keyCommit => .none
        | .keyWord _ => .none)) ∧
  ∀ (s : State) (w : Word) (e : DecodeError), s.inReset = false → s.job = .none → decode w = .error e →
    ∃ t, hostWrite 0x00 4 w s = .next t ∧ t.err = .illegalCommand ∧ t.job = .none

/-- R103: errors are precise. A command that reports a code other than OK has changed nothing but ERR; KEY_COMMIT has
also emptied the loader and cleared KMASK, unless it reports KEY_LOCKED. The last clause is the model's reading, marked
DEDUCED (log entry 9): the ill-formed term KEY_WORD with an index above 7 does what its illegal word does (R62, R107). -/
def Obligations.ErrorsArePrecise : Prop :=
  (∀ (s t : State) (i : Instr), s.inReset = false → s.job = .none → exec i s = .next t → t.err ≠ .ok →
    t = { s with err := t.err } ∨
    (i = .keyCommit ∧ (t.err = .invalidKeyLength ∨ t.err = .invalidKeyEncoding) ∧
      t = { s with
        err := t.err, kmask := 0, kstage := #v[0, 0, 0, 0, 0, 0, 0, 0], kcnt := 0, kbad := false })) ∧
  ∀ (s : State) (idx : Byte), s.inReset = false → s.job = .none → 8 ≤ idx.toNat →
    exec (.keyWord idx) s = .next { s with err := .illegalCommand }

/-- R106: ENCRYPT, DECRYPT and HASH_INIT, and no other command, report KEY_NOT_LOADED, exactly when `KEYV = 0`; then
no state but ERR changes. -/
def Obligations.KeyNotLoadedReported : Prop :=
  ∀ (s : State) (i : Instr), s.inReset = false → s.job = .none →
    ∃ t, exec i s = .next t ∧
      (t.err = .keyNotLoaded ↔ s.keyv = false ∧ (i = .encrypt ∨ i = .decrypt ∨ i = .hashInit)) ∧
      (t.err = .keyNotLoaded → t = { s with err := .keyNotLoaded })

/-- R108: HASH_BYTE and HASH_FINAL, and no other command, report HASH_NOT_ACTIVE, exactly when PHASE is IDLE or DONE;
then no state but ERR changes. -/
def Obligations.HashNotActiveReported : Prop :=
  ∀ (s : State) (i : Instr), s.inReset = false → s.job = .none →
    ∃ t, exec i s = .next t ∧
      (t.err = .hashNotActive ↔
        (s.phase = .idle ∨ s.phase = .done) ∧ ((∃ b, i = .hashByte b) ∨ i = .hashFinal)) ∧
      (t.err = .hashNotActive → t = { s with err := .hashNotActive })

/-- R109: the four key commands, and no other command, report KEY_LOCKED, exactly when `PHASE = ABSORB`; then no state
but ERR changes. -/
def Obligations.KeyLockedReported : Prop :=
  ∀ (s : State) (i : Instr), s.inReset = false → s.job = .none → i.wellFormed = true →
    ∃ t, exec i s = .next t ∧
      (t.err = .keyLocked ↔
        s.phase = .absorb ∧
          (i = .keyClear ∨ (∃ c, i = .keyChar c) ∨ i = .keyCommit ∨ ∃ idx, i = .keyWord idx)) ∧
      (t.err = .keyLocked → t = { s with err := .keyLocked })

/-- R131: while `BUSY = 1` an engine step is always enabled, and under the fair schedule the job in progress ends
after its remaining rounds. -/
def Obligations.EveryJobCompletes : Prop :=
  (∀ s : State, s.job ≠ .none → engineStep s ≠ s) ∧
  ∀ s : State, s.inReset = false → s.turns = [] →
    ∃ t, core.run (if s.job = .none then 0 else 32 - s.rnd.toNat) s = .next t ∧ t.job = .none ∧
      t.hostQueue = s.hostQueue

/-- R64: the host's WAIT, whenever the host moves, reads STATUS and ends exactly when the value read has BUSY = 0. -/
def Obligations.WaitEndsWhenIdle : Prop :=
  ∀ (s : State) (rest : List HostOp), s.inReset = false → s.nextTurn = .host → s.hostQueue = .wait :: rest →
    step s = .next { s with
      turns := s.turns.tail, reply := .data s.status,
      hostQueue := if s.job = .none then rest else .wait :: rest }
end

