-- ==== Sys2Proof/Laws/Blocks.lean ====
section
/-! SUPPORT. Laws/Blocks.lean: packing words into bytes and back, exclusive OR of blocks, and what the type of the
parameter SBOX says. -/

namespace Sys2Proof.Machine

/-! ### Little-endian packing -/

@[simp] theorem byteOf_le32_zero (b0 b1 b2 b3 : Byte) : byteOf (le32 b0 b1 b2 b3) 0 = b0 := by
  ext i hi
  simp only [byteOf, le32]
  interval_cases i <;> simp

@[simp] theorem byteOf_le32_one (b0 b1 b2 b3 : Byte) : byteOf (le32 b0 b1 b2 b3) 1 = b1 := by
  ext i hi
  simp only [byteOf, le32]
  interval_cases i <;> simp

@[simp] theorem byteOf_le32_two (b0 b1 b2 b3 : Byte) : byteOf (le32 b0 b1 b2 b3) 2 = b2 := by
  ext i hi
  simp only [byteOf, le32]
  interval_cases i <;> simp

@[simp] theorem byteOf_le32_three (b0 b1 b2 b3 : Byte) : byteOf (le32 b0 b1 b2 b3) 3 = b3 := by
  ext i hi
  simp only [byteOf, le32]
  interval_cases i <;> simp

@[simp] theorem le32_byteOf (w : Word) : le32 (byteOf w 0) (byteOf w 1) (byteOf w 2) (byteOf w 3) = w := by
  ext i hi
  simp only [byteOf, le32]
  interval_cases i <;> simp

@[simp] theorem word0_blk (w0 w1 : Word) : word0 (blk w0 w1) = w0 := by simp [word0, blk]

@[simp] theorem word1_blk (w0 w1 : Word) : word1 (blk w0 w1) = w1 := by simp [word1, blk]

@[simp] theorem blk_word0_word1 (b : Block) : blk (word0 b) (word1 b) = b := by
  ext k hk
  simp only [word0, word1, blk]
  interval_cases k <;> simp

/-! ### Exclusive OR of blocks and the fold -/

@[simp] theorem xorBlock_getElem (a b : Block) (k : Nat) (h : k < 8) : (xorBlock a b)[k] = a[k] ^^^ b[k] := by
  simp [xorBlock]

@[simp] theorem fold_getElem (a e m : Block) (k : Nat) (h : k < 8) : (fold a e m)[k] = a[k] ^^^ e[k] ^^^ m[k] := by
  simp [fold]

@[simp] theorem repBlock_getElem (b : Byte) (k : Nat) (h : k < 8) : (repBlock b)[k] = b := by
  simp [repBlock]

theorem xorBlock_comm (a b : Block) : xorBlock a b = xorBlock b a := by
  ext k hk; simp [BitVec.xor_comm]

theorem xorBlock_assoc (a b c : Block) : xorBlock (xorBlock a b) c = xorBlock a (xorBlock b c) := by
  ext k hk; simp [BitVec.xor_assoc]

@[simp] theorem xorBlock_self (a : Block) : xorBlock a a = repBlock 0 := by
  ext k hk; simp

@[simp] theorem xorBlock_zero (a : Block) : xorBlock a (repBlock 0) = a := by
  ext k hk; simp

@[simp] theorem zero_xorBlock (a : Block) : xorBlock (repBlock 0) a = a := by
  ext k hk; simp

/-- The fold adds to the accumulator the exclusive OR of the cipher output and the plaintext block. -/
theorem fold_eq_xorBlock (a e m : Block) : fold a e m = xorBlock a (xorBlock e m) := by
  ext k hk; simp [BitVec.xor_assoc]

/-! ### The parameter SBOX -/

/-- What the type of Config.sboxRow says of the table: no row has an entry twice (R25). -/
theorem sbox_row_injective (j : Fin 8) (m n : Fin 16) (h : Config.sbox[j][m] = Config.sbox[j][n]) : m = n := by
  have h' : Config.sboxRow j m = Config.sboxRow j n := by simpa [Config.sbox] using h
  exact (Config.sboxRow j).injective h'

end Sys2Proof.Machine
end

