-- ==== Sys2Proof/Laws/Encoding.lean ====
section
/-! SUPPORT. Laws/Encoding.lean: the fields of a command word, and those of an encoded command. -/

namespace Sys2Proof

/-- A word is its three fields (R58). -/
theorem word_eq_of_fields {w v : Word} (h0 : opcField w = opcField v) (h1 : imm8Field w = imm8Field v)
    (h2 : rsvField w = rsvField v) : w = v := by
  apply BitVec.eq_of_getLsbD_eq
  intro k hk
  by_cases h : k < 8
  · have := congrArg (fun x => x.getLsbD k) h0
    simpa [opcField, h] using this
  · by_cases h' : k < 16
    · have := congrArg (fun x => x.getLsbD (k - 8)) h1
      simp only [imm8Field, BitVec.getLsbD_extractLsb', show k - 8 < 8 by omega, decide_true,
        show 8 + (k - 8) = k by omega, Bool.true_and] at this
      exact this
    · have := congrArg (fun x => x.getLsbD (k - 16)) h2
      simp only [rsvField, BitVec.getLsbD_extractLsb', show k - 16 < 16 by omega, decide_true,
        show 16 + (k - 16) = k by omega, Bool.true_and] at this
      exact this

@[simp] theorem opcField_encode (i : Instr) : opcField (encode i) = opcode i := by
  ext k hk
  simp only [opcField, encode]
  interval_cases k <;> simp

@[simp] theorem imm8Field_encode (i : Instr) : imm8Field (encode i) = operandByte i := by
  ext k hk
  simp only [imm8Field, encode]
  interval_cases k <;> simp

@[simp] theorem rsvField_encode (i : Instr) : rsvField (encode i) = 0 := by
  ext k hk
  simp only [rsvField, encode]
  interval_cases k <;> simp

theorem noOperand_eq_ok {imm : Byte} {i j : Instr} : noOperand imm i = .ok j ↔ imm = 0x00 ∧ i = j := by
  unfold noOperand; split <;> simp_all

theorem indexOperand_eq_ok {imm : Byte} {j : Instr} :
    indexOperand imm = .ok j ↔ imm.toNat < 8 ∧ .keyWord imm = j := by
  unfold indexOperand; split <;> simp_all

/-- What a decoded word's fields are (R61, R62). -/
theorem fields_of_decode {w : Word} {i : Instr} (h : decode w = .ok i) :
    i.wellFormed = true ∧ opcField w = opcode i ∧ imm8Field w = operandByte i ∧ rsvField w = 0 := by
  unfold decode at h
  split at h
  case isFalse => cases h
  case isTrue hr =>
    unfold decodeFields at h
    repeat' split at h
    all_goals
      first
        | (obtain ⟨h0, rfl⟩ := noOperand_eq_ok.mp h; exact ⟨rfl, by assumption, h0, hr⟩)
        | (obtain ⟨h0, rfl⟩ := indexOperand_eq_ok.mp h
           exact ⟨decide_eq_true h0, by assumption, rfl, hr⟩)
        | (cases h <;> exact ⟨rfl, by assumption, rfl, hr⟩)

end Sys2Proof
end

