-- ==== Sys2Proof/Laws/State.lean ====
section
/-! SUPPORT. Laws/State.lean: what each named update does to each field of State, one lemma per field per update. -/

namespace Sys2Proof.Machine.State

variable (s : State)

@[simp] theorem report_key (c : ErrCode) : (s.report c).key = s.key := rfl
@[simp] theorem report_kmask (c : ErrCode) : (s.report c).kmask = s.kmask := rfl
@[simp] theorem report_kstage (c : ErrCode) : (s.report c).kstage = s.kstage := rfl
@[simp] theorem report_kcnt (c : ErrCode) : (s.report c).kcnt = s.kcnt := rfl
@[simp] theorem report_kbad (c : ErrCode) : (s.report c).kbad = s.kbad := rfl
@[simp] theorem report_sbox (c : ErrCode) : (s.report c).sbox = s.sbox := rfl
@[simp] theorem report_left (c : ErrCode) : (s.report c).left = s.left := rfl
@[simp] theorem report_right (c : ErrCode) : (s.report c).right = s.right := rfl
@[simp] theorem report_job (c : ErrCode) : (s.report c).job = s.job := rfl
@[simp] theorem report_rnd (c : ErrCode) : (s.report c).rnd = s.rnd := rfl
@[simp] theorem report_mblk (c : ErrCode) : (s.report c).mblk = s.mblk := rfl
@[simp] theorem report_acc (c : ErrCode) : (s.report c).acc = s.acc := rfl
@[simp] theorem report_buf (c : ErrCode) : (s.report c).buf = s.buf := rfl
@[simp] theorem report_bufcnt (c : ErrCode) : (s.report c).bufcnt = s.bufcnt := rfl
@[simp] theorem report_phase (c : ErrCode) : (s.report c).phase = s.phase := rfl
@[simp] theorem report_data (c : ErrCode) : (s.report c).data = s.data := rfl
@[simp] theorem report_blkIn0 (c : ErrCode) : (s.report c).blkIn0 = s.blkIn0 := rfl
@[simp] theorem report_blkIn1 (c : ErrCode) : (s.report c).blkIn1 = s.blkIn1 := rfl
@[simp] theorem report_blkOut0 (c : ErrCode) : (s.report c).blkOut0 = s.blkOut0 := rfl
@[simp] theorem report_blkOut1 (c : ErrCode) : (s.report c).blkOut1 = s.blkOut1 := rfl
@[simp] theorem report_err (c : ErrCode) : (s.report c).err = c := rfl
@[simp] theorem report_ovr (c : ErrCode) : (s.report c).ovr = s.ovr := rfl
@[simp] theorem report_inReset (c : ErrCode) : (s.report c).inReset = s.inReset := rfl
@[simp] theorem report_hostQueue (c : ErrCode) : (s.report c).hostQueue = s.hostQueue := rfl
@[simp] theorem report_turns (c : ErrCode) : (s.report c).turns = s.turns := rfl
@[simp] theorem report_reply (c : ErrCode) : (s.report c).reply = s.reply := rfl
@[simp] theorem report_freeIdx (c : ErrCode) : (s.report c).freeIdx = s.freeIdx := rfl

@[simp] theorem drop_key : (s.drop).key = s.key := rfl
@[simp] theorem drop_kmask : (s.drop).kmask = s.kmask := rfl
@[simp] theorem drop_kstage : (s.drop).kstage = s.kstage := rfl
@[simp] theorem drop_kcnt : (s.drop).kcnt = s.kcnt := rfl
@[simp] theorem drop_kbad : (s.drop).kbad = s.kbad := rfl
@[simp] theorem drop_sbox : (s.drop).sbox = s.sbox := rfl
@[simp] theorem drop_left : (s.drop).left = s.left := rfl
@[simp] theorem drop_right : (s.drop).right = s.right := rfl
@[simp] theorem drop_job : (s.drop).job = s.job := rfl
@[simp] theorem drop_rnd : (s.drop).rnd = s.rnd := rfl
@[simp] theorem drop_mblk : (s.drop).mblk = s.mblk := rfl
@[simp] theorem drop_acc : (s.drop).acc = s.acc := rfl
@[simp] theorem drop_buf : (s.drop).buf = s.buf := rfl
@[simp] theorem drop_bufcnt : (s.drop).bufcnt = s.bufcnt := rfl
@[simp] theorem drop_phase : (s.drop).phase = s.phase := rfl
@[simp] theorem drop_data : (s.drop).data = s.data := rfl
@[simp] theorem drop_blkIn0 : (s.drop).blkIn0 = s.blkIn0 := rfl
@[simp] theorem drop_blkIn1 : (s.drop).blkIn1 = s.blkIn1 := rfl
@[simp] theorem drop_blkOut0 : (s.drop).blkOut0 = s.blkOut0 := rfl
@[simp] theorem drop_blkOut1 : (s.drop).blkOut1 = s.blkOut1 := rfl
@[simp] theorem drop_err : (s.drop).err = s.err := rfl
@[simp] theorem drop_ovr : (s.drop).ovr = true := rfl
@[simp] theorem drop_inReset : (s.drop).inReset = s.inReset := rfl
@[simp] theorem drop_hostQueue : (s.drop).hostQueue = s.hostQueue := rfl
@[simp] theorem drop_turns : (s.drop).turns = s.turns := rfl
@[simp] theorem drop_reply : (s.drop).reply = s.reply := rfl
@[simp] theorem drop_freeIdx : (s.drop).freeIdx = s.freeIdx := rfl

@[simp] theorem startJob_key (j : Job) (l r : Word) : (s.startJob j l r).key = s.key := rfl
@[simp] theorem startJob_kmask (j : Job) (l r : Word) : (s.startJob j l r).kmask = s.kmask := rfl
@[simp] theorem startJob_kstage (j : Job) (l r : Word) : (s.startJob j l r).kstage = s.kstage := rfl
@[simp] theorem startJob_kcnt (j : Job) (l r : Word) : (s.startJob j l r).kcnt = s.kcnt := rfl
@[simp] theorem startJob_kbad (j : Job) (l r : Word) : (s.startJob j l r).kbad = s.kbad := rfl
@[simp] theorem startJob_sbox (j : Job) (l r : Word) : (s.startJob j l r).sbox = s.sbox := rfl
@[simp] theorem startJob_left (j : Job) (l r : Word) : (s.startJob j l r).left = l := rfl
@[simp] theorem startJob_right (j : Job) (l r : Word) : (s.startJob j l r).right = r := rfl
@[simp] theorem startJob_job (j : Job) (l r : Word) : (s.startJob j l r).job = j := rfl
@[simp] theorem startJob_rnd (j : Job) (l r : Word) : (s.startJob j l r).rnd = 0 := rfl
@[simp] theorem startJob_mblk (j : Job) (l r : Word) : (s.startJob j l r).mblk = s.mblk := rfl
@[simp] theorem startJob_acc (j : Job) (l r : Word) : (s.startJob j l r).acc = s.acc := rfl
@[simp] theorem startJob_buf (j : Job) (l r : Word) : (s.startJob j l r).buf = s.buf := rfl
@[simp] theorem startJob_bufcnt (j : Job) (l r : Word) : (s.startJob j l r).bufcnt = s.bufcnt := rfl
@[simp] theorem startJob_phase (j : Job) (l r : Word) : (s.startJob j l r).phase = s.phase := rfl
@[simp] theorem startJob_data (j : Job) (l r : Word) : (s.startJob j l r).data = s.data := rfl
@[simp] theorem startJob_blkIn0 (j : Job) (l r : Word) : (s.startJob j l r).blkIn0 = s.blkIn0 := rfl
@[simp] theorem startJob_blkIn1 (j : Job) (l r : Word) : (s.startJob j l r).blkIn1 = s.blkIn1 := rfl
@[simp] theorem startJob_blkOut0 (j : Job) (l r : Word) : (s.startJob j l r).blkOut0 = s.blkOut0 := rfl
@[simp] theorem startJob_blkOut1 (j : Job) (l r : Word) : (s.startJob j l r).blkOut1 = s.blkOut1 := rfl
@[simp] theorem startJob_err (j : Job) (l r : Word) : (s.startJob j l r).err = s.err := rfl
@[simp] theorem startJob_ovr (j : Job) (l r : Word) : (s.startJob j l r).ovr = s.ovr := rfl
@[simp] theorem startJob_inReset (j : Job) (l r : Word) : (s.startJob j l r).inReset = s.inReset := rfl
@[simp] theorem startJob_hostQueue (j : Job) (l r : Word) : (s.startJob j l r).hostQueue = s.hostQueue := rfl
@[simp] theorem startJob_turns (j : Job) (l r : Word) : (s.startJob j l r).turns = s.turns := rfl
@[simp] theorem startJob_reply (j : Job) (l r : Word) : (s.startJob j l r).reply = s.reply := rfl
@[simp] theorem startJob_freeIdx (j : Job) (l r : Word) : (s.startJob j l r).freeIdx = s.freeIdx := rfl

@[simp] theorem emptyLoader_key : (s.emptyLoader).key = s.key := rfl
@[simp] theorem emptyLoader_kmask : (s.emptyLoader).kmask = s.kmask := rfl
@[simp] theorem emptyLoader_kstage : (s.emptyLoader).kstage = Vector.replicate 8 0 := rfl
@[simp] theorem emptyLoader_kcnt : (s.emptyLoader).kcnt = 0 := rfl
@[simp] theorem emptyLoader_kbad : (s.emptyLoader).kbad = false := rfl
@[simp] theorem emptyLoader_sbox : (s.emptyLoader).sbox = s.sbox := rfl
@[simp] theorem emptyLoader_left : (s.emptyLoader).left = s.left := rfl
@[simp] theorem emptyLoader_right : (s.emptyLoader).right = s.right := rfl
@[simp] theorem emptyLoader_job : (s.emptyLoader).job = s.job := rfl
@[simp] theorem emptyLoader_rnd : (s.emptyLoader).rnd = s.rnd := rfl
@[simp] theorem emptyLoader_mblk : (s.emptyLoader).mblk = s.mblk := rfl
@[simp] theorem emptyLoader_acc : (s.emptyLoader).acc = s.acc := rfl
@[simp] theorem emptyLoader_buf : (s.emptyLoader).buf = s.buf := rfl
@[simp] theorem emptyLoader_bufcnt : (s.emptyLoader).bufcnt = s.bufcnt := rfl
@[simp] theorem emptyLoader_phase : (s.emptyLoader).phase = s.phase := rfl
@[simp] theorem emptyLoader_data : (s.emptyLoader).data = s.data := rfl
@[simp] theorem emptyLoader_blkIn0 : (s.emptyLoader).blkIn0 = s.blkIn0 := rfl
@[simp] theorem emptyLoader_blkIn1 : (s.emptyLoader).blkIn1 = s.blkIn1 := rfl
@[simp] theorem emptyLoader_blkOut0 : (s.emptyLoader).blkOut0 = s.blkOut0 := rfl
@[simp] theorem emptyLoader_blkOut1 : (s.emptyLoader).blkOut1 = s.blkOut1 := rfl
@[simp] theorem emptyLoader_err : (s.emptyLoader).err = s.err := rfl
@[simp] theorem emptyLoader_ovr : (s.emptyLoader).ovr = s.ovr := rfl
@[simp] theorem emptyLoader_inReset : (s.emptyLoader).inReset = s.inReset := rfl
@[simp] theorem emptyLoader_hostQueue : (s.emptyLoader).hostQueue = s.hostQueue := rfl
@[simp] theorem emptyLoader_turns : (s.emptyLoader).turns = s.turns := rfl
@[simp] theorem emptyLoader_reply : (s.emptyLoader).reply = s.reply := rfl
@[simp] theorem emptyLoader_freeIdx : (s.emptyLoader).freeIdx = s.freeIdx := rfl

@[simp] theorem respond_key (a : BusReply) : (s.respond a).key = s.key := rfl
@[simp] theorem respond_kmask (a : BusReply) : (s.respond a).kmask = s.kmask := rfl
@[simp] theorem respond_kstage (a : BusReply) : (s.respond a).kstage = s.kstage := rfl
@[simp] theorem respond_kcnt (a : BusReply) : (s.respond a).kcnt = s.kcnt := rfl
@[simp] theorem respond_kbad (a : BusReply) : (s.respond a).kbad = s.kbad := rfl
@[simp] theorem respond_sbox (a : BusReply) : (s.respond a).sbox = s.sbox := rfl
@[simp] theorem respond_left (a : BusReply) : (s.respond a).left = s.left := rfl
@[simp] theorem respond_right (a : BusReply) : (s.respond a).right = s.right := rfl
@[simp] theorem respond_job (a : BusReply) : (s.respond a).job = s.job := rfl
@[simp] theorem respond_rnd (a : BusReply) : (s.respond a).rnd = s.rnd := rfl
@[simp] theorem respond_mblk (a : BusReply) : (s.respond a).mblk = s.mblk := rfl
@[simp] theorem respond_acc (a : BusReply) : (s.respond a).acc = s.acc := rfl
@[simp] theorem respond_buf (a : BusReply) : (s.respond a).buf = s.buf := rfl
@[simp] theorem respond_bufcnt (a : BusReply) : (s.respond a).bufcnt = s.bufcnt := rfl
@[simp] theorem respond_phase (a : BusReply) : (s.respond a).phase = s.phase := rfl
@[simp] theorem respond_data (a : BusReply) : (s.respond a).data = s.data := rfl
@[simp] theorem respond_blkIn0 (a : BusReply) : (s.respond a).blkIn0 = s.blkIn0 := rfl
@[simp] theorem respond_blkIn1 (a : BusReply) : (s.respond a).blkIn1 = s.blkIn1 := rfl
@[simp] theorem respond_blkOut0 (a : BusReply) : (s.respond a).blkOut0 = s.blkOut0 := rfl
@[simp] theorem respond_blkOut1 (a : BusReply) : (s.respond a).blkOut1 = s.blkOut1 := rfl
@[simp] theorem respond_err (a : BusReply) : (s.respond a).err = s.err := rfl
@[simp] theorem respond_ovr (a : BusReply) : (s.respond a).ovr = s.ovr := rfl
@[simp] theorem respond_inReset (a : BusReply) : (s.respond a).inReset = s.inReset := rfl
@[simp] theorem respond_hostQueue (a : BusReply) : (s.respond a).hostQueue = s.hostQueue := rfl
@[simp] theorem respond_turns (a : BusReply) : (s.respond a).turns = s.turns := rfl
@[simp] theorem respond_reply (a : BusReply) : (s.respond a).reply = a := rfl
@[simp] theorem respond_freeIdx (a : BusReply) : (s.respond a).freeIdx = s.freeIdx := rfl

@[simp] theorem popTurn_key : (s.popTurn).key = s.key := rfl
@[simp] theorem popTurn_kmask : (s.popTurn).kmask = s.kmask := rfl
@[simp] theorem popTurn_kstage : (s.popTurn).kstage = s.kstage := rfl
@[simp] theorem popTurn_kcnt : (s.popTurn).kcnt = s.kcnt := rfl
@[simp] theorem popTurn_kbad : (s.popTurn).kbad = s.kbad := rfl
@[simp] theorem popTurn_sbox : (s.popTurn).sbox = s.sbox := rfl
@[simp] theorem popTurn_left : (s.popTurn).left = s.left := rfl
@[simp] theorem popTurn_right : (s.popTurn).right = s.right := rfl
@[simp] theorem popTurn_job : (s.popTurn).job = s.job := rfl
@[simp] theorem popTurn_rnd : (s.popTurn).rnd = s.rnd := rfl
@[simp] theorem popTurn_mblk : (s.popTurn).mblk = s.mblk := rfl
@[simp] theorem popTurn_acc : (s.popTurn).acc = s.acc := rfl
@[simp] theorem popTurn_buf : (s.popTurn).buf = s.buf := rfl
@[simp] theorem popTurn_bufcnt : (s.popTurn).bufcnt = s.bufcnt := rfl
@[simp] theorem popTurn_phase : (s.popTurn).phase = s.phase := rfl
@[simp] theorem popTurn_data : (s.popTurn).data = s.data := rfl
@[simp] theorem popTurn_blkIn0 : (s.popTurn).blkIn0 = s.blkIn0 := rfl
@[simp] theorem popTurn_blkIn1 : (s.popTurn).blkIn1 = s.blkIn1 := rfl
@[simp] theorem popTurn_blkOut0 : (s.popTurn).blkOut0 = s.blkOut0 := rfl
@[simp] theorem popTurn_blkOut1 : (s.popTurn).blkOut1 = s.blkOut1 := rfl
@[simp] theorem popTurn_err : (s.popTurn).err = s.err := rfl
@[simp] theorem popTurn_ovr : (s.popTurn).ovr = s.ovr := rfl
@[simp] theorem popTurn_inReset : (s.popTurn).inReset = s.inReset := rfl
@[simp] theorem popTurn_hostQueue : (s.popTurn).hostQueue = s.hostQueue := rfl
@[simp] theorem popTurn_turns : (s.popTurn).turns = s.turns.tail := rfl
@[simp] theorem popTurn_reply : (s.popTurn).reply = s.reply := rfl
@[simp] theorem popTurn_freeIdx : (s.popTurn).freeIdx = s.freeIdx := rfl

end Sys2Proof.Machine.State
end

