-- ==== Sys2Proof/Laws/Engine.lean ====
section
/-! SUPPORT. Laws/Engine.lean: all that an engine step can do, and the rounds of a job taken together. -/

namespace Sys2Proof.Machine

theorem engineStep_without_job {s : State} (hj : s.job = .none) : engineStep s = s := by
  simp [engineStep, hj]

/-- Rounds 0 to 30 (R74). -/
theorem engineStep_round {s : State} (hj : s.job ≠ .none) (hr : s.rnd.toNat < 31) :
    engineStep s = { s with left := s.roundTemp, right := s.left, rnd := s.rnd + 1 } := by
  simp [engineStep, hj, hr]

/-- Round 31 (R74). -/
theorem engineStep_last {s : State} (hj : s.job ≠ .none) (hr : ¬ s.rnd.toNat < 31) :
    engineStep s = completeJob s.roundTemp s := by
  simp [engineStep, hj, hr]

/-- What an engine step never writes. -/
theorem engineStep_frame (s : State) :
    engineStep s =
      { s with
        left := (engineStep s).left, right := (engineStep s).right, rnd := (engineStep s).rnd,
        job := (engineStep s).job, blkOut0 := (engineStep s).blkOut0, blkOut1 := (engineStep s).blkOut1,
        acc := (engineStep s).acc, phase := (engineStep s).phase } := by
  by_cases hj : s.job = .none
  · rw [engineStep_without_job hj]
  · by_cases hr : s.rnd.toNat < 31
    · rw [engineStep_round hj hr]
    · rw [engineStep_last hj hr]
      cases hc : s.job with
      | none => exact absurd hc hj
      | _ => simp [completeJob, hc]

/-- An engine step reads L, R, RND, JOB, KEY, SBOX, MBLK and ACC only: with any other field changed it does the same. -/
theorem engineStep_environment (s : State) (kmask : BitVec 8) (data b0 b1 : Word) (ovr : Bool) (err : ErrCode)
    (q : List HostOp) (ts : List Turn) (a : BusReply) (f : Nat) :
    engineStep { s with
      kmask := kmask, data := data, blkIn0 := b0, blkIn1 := b1, ovr := ovr, err := err, hostQueue := q, turns := ts,
      reply := a, freeIdx := f } =
    { engineStep s with
      kmask := kmask, data := data, blkIn0 := b0, blkIn1 := b1, ovr := ovr, err := err, hostQueue := q, turns := ts,
      reply := a, freeIdx := f } := by
  obtain ⟨_, _, _, _, _, _, _, _, job, rnd, _, _, _, _, _, _, _, _, _, _, _, _, _, _, _, _, _⟩ := s
  by_cases hr : rnd.toNat < 31 <;> cases job <;> simp [engineStep, completeJob, hr] <;>
    first | rfl | exact ⟨rfl, rfl⟩

/-- The `(L, R)` pair after `n` rounds of a job that started with RND = 0 (R69, R74). -/
def roundsOf (s : State) (n : Nat) : Word × Word :=
  (List.range n).foldl (cryptRound s.sbox s.key (if s.job = .dec then ksDec else ksEnc)) (s.left, s.right)

theorem roundsOf_succ (s : State) (n : Nat) :
    roundsOf s (n + 1) =
      cryptRound s.sbox s.key (if s.job = .dec then ksDec else ksEnc) (roundsOf s n) n := by
  simp [roundsOf, List.range_succ, List.foldl_append]

/-- The round of the engine is the round of the network (R69, R74). -/
theorem roundTemp_eq (s : State) :
    s.roundTemp =
      roundFn s.sbox s.left s.key[(if s.job = .dec then ksDec else ksEnc) s.rnd.toNat] ^^^ s.right := by
  by_cases h : s.job = .dec <;> simp [State.roundTemp, State.roundKey, h]

/-- The first `n` engine steps of a job, `n` at most 31, are the first `n` rounds and change L, R and RND only. -/
theorem engineStep_iterate {s : State} (hj : s.job ≠ .none) (hr : s.rnd = 0) (n : Nat) (hn : n ≤ 31) :
    engineStep^[n] s =
      { s with left := (roundsOf s n).1, right := (roundsOf s n).2, rnd := BitVec.ofNat 5 n } := by
  induction n with
  | zero =>
    have h0 : s.rnd = BitVec.ofNat 5 0 := hr
    change s = { s with left := s.left, right := s.right, rnd := BitVec.ofNat 5 0 }
    rw [← h0]
  | succ n ih =>
    have hmod : n % 32 = n := by omega
    rw [Function.iterate_succ_apply', ih (by omega), engineStep_round (by simpa using hj) (by simp; omega)]
    have hlt : n < 31 := by omega
    simp [roundsOf_succ, cryptRound, roundTemp_eq, hmod, hlt, BitVec.ofNat_add]

end Sys2Proof.Machine
end

