-- ==== Sys2Proof/Laws/Ops.lean ====
section
/-! SUPPORT. Laws/Ops.lean: once for each shared operation, everything it can do. -/

namespace Sys2Proof.Machine

/-! ### Acceptance -/

theorem busy_eq_false_iff (s : State) : s.busy = false ↔ s.job = .none := by simp [State.busy]

theorem busy_eq_true_iff (s : State) : s.busy = true ↔ s.job ≠ .none := by simp [State.busy]

theorem keyv_eq_true_iff (s : State) : s.keyv = true ↔ s.kmask = 0xFF := by simp [State.keyv]

theorem acceptCommand_idle {effect : State → State} {s : State} (h : s.inReset = false) (hj : s.job = .none) :
    acceptCommand effect s = .next (effect s) := by
  simp [acceptCommand, h, State.busy, hj]

theorem acceptCommand_busy {effect : State → State} {s : State} (h : s.inReset = false) (hj : s.job ≠ .none) :
    acceptCommand effect s = .next s.drop := by
  simp [acceptCommand, h, State.busy, hj]

theorem acceptCommand_held {effect : State → State} {s : State} (h : s.inReset = true) :
    acceptCommand effect s = .next s := by
  simp [acceptCommand, h]

/-- The acceptance pseudocode of each command, as a function of the state (R97). -/
def effectOf (i : Instr) (s : State) : State :=
  match i with
  | .nop => s.report .ok
  | .clrStatus => { s with ovr := false }.report .ok
  | .encrypt => startCipher .enc s
  | .decrypt => startCipher .dec s
  | .hashInit => startHash s
  | .hashByte b => absorbByte b s
  | .hashFinal => finishHash s
  | .keyClear => unlessLocked clearKey s
  | .keyChar c => unlessLocked (receiveChar c) s
  | .keyCommit => unlessLocked commitKey s
  | .keyWord idx =>
    if h : idx.toNat < 8 then unlessLocked (loadWord idx h) s else s.report .illegalCommand

/-- Every command is the acceptance of its effect: all that `exec` can do (R97, R98). -/
theorem exec_eq_acceptCommand (i : Instr) (s : State) : exec i s = acceptCommand (effectOf i) s := by
  cases i with
  | keyWord idx =>
    by_cases h : idx.toNat < 8
    · simp [exec, execKeyWord, effectOf, acceptCommand, h]
    · simp [exec, execKeyWord, effectOf, acceptCommand, h]
  | _ => rfl

theorem exec_idle {i : Instr} {s : State} (h : s.inReset = false) (hj : s.job = .none) :
    exec i s = .next (effectOf i s) := by
  rw [exec_eq_acceptCommand, acceptCommand_idle h hj]

theorem exec_busy {i : Instr} {s : State} (h : s.inReset = false) (hj : s.job ≠ .none) :
    exec i s = .next s.drop := by
  rw [exec_eq_acceptCommand, acceptCommand_busy h hj]

theorem illegalCommand_idle {s : State} (h : s.inReset = false) (hj : s.job = .none) :
    illegalCommand s = .next (s.report .illegalCommand) :=
  acceptCommand_idle h hj

/-- What a command writes never includes the ROM, the reset input or anything of the host's. -/
theorem effectOf_environment (i : Instr) (s : State) :
    (effectOf i s).sbox = s.sbox ∧ (effectOf i s).inReset = s.inReset ∧
      (effectOf i s).hostQueue = s.hostQueue ∧ (effectOf i s).turns = s.turns ∧
      (effectOf i s).reply = s.reply ∧ (effectOf i s).freeIdx = s.freeIdx := by
  cases i <;>
    simp only [effectOf, startCipher, startHash, absorbByte, finishHash, unlessLocked, clearKey, receiveChar,
      commitKey, loadWord] <;>
    (repeat' split) <;> simp

/-- No command but those that start a hash job or a cipher job writes the datapath or the result registers. -/
theorem effectOf_results (i : Instr) (s : State) :
    (effectOf i s).blkOut0 = s.blkOut0 ∧ (effectOf i s).blkOut1 = s.blkOut1 ∧
      (effectOf i s).data = s.data ∧ (effectOf i s).blkIn0 = s.blkIn0 ∧ (effectOf i s).blkIn1 = s.blkIn1 := by
  cases i <;>
    simp only [effectOf, startCipher, startHash, absorbByte, finishHash, unlessLocked, clearKey, receiveChar,
      commitKey, loadWord] <;>
    (repeat' split) <;> simp

/-! ### Host accesses -/

theorem hostAccess_outside {off : Int} {n : Nat} {taken : State → Host.Outcome State Fault Refusal} {s : State}
    (h : inWindow off = false) : hostAccess off n taken s = .fault (.outsideWindow off) := by
  simp [hostAccess, h]

theorem hostAccess_held {off : Int} {n : Nat} {taken : State → Host.Outcome State Fault Refusal} {s : State}
    (h : inWindow off = true) (hr : s.inReset = true) :
    hostAccess off n taken s =
      .next ({ s with freeIdx := s.freeIdx + 1 }.respond (Config.resetReply s.freeIdx)) := by
  simp [hostAccess, h, hr]

theorem hostAccess_refused {off : Int} {n : Nat} {taken : State → Host.Outcome State Fault Refusal} {s : State}
    (h : inWindow off = true) (hr : s.inReset = false) (hf : refusedAccess off n = true) :
    hostAccess off n taken s = .next (s.raiseBusError off) := by
  simp [hostAccess, h, hr, hf]

theorem hostAccess_taken {off : Int} {n : Nat} {taken : State → Host.Outcome State Fault Refusal} {s : State}
    (h : inWindow off = true) (hr : s.inReset = false) (hf : refusedAccess off n = false) :
    hostAccess off n taken s = taken s := by
  simp [hostAccess, h, hr, hf]

/-- A write to CMD with the CORE idle: the decoded command, or ILLEGAL_COMMAND (R97). -/
theorem writeCmd_idle {v : Word} {s : State} (h : s.inReset = false) (hj : s.job = .none) :
    writeCmd v s =
      .next (match decode v with
        | .ok i => effectOf i s
        | .error _ => s.report .illegalCommand) := by
  simp only [writeCmd, State.busy, hj]
  cases hd : decode v with
  | ok i => simp [exec_idle h hj]
  | error e => simp [illegalCommand_idle h hj]

theorem writeCmd_busy {v : Word} {s : State} (hj : s.job ≠ .none) : writeCmd v s = .next s.drop := by
  simp [writeCmd, State.busy, hj]

/-- The write of a word to CMD with the CORE out of reset and idle. -/
theorem hostWrite_cmd_idle {v : Word} {s : State} (h : s.inReset = false) (hj : s.job = .none) :
    hostWrite 0x00 4 v s =
      .next (match decode v with
        | .ok i => effectOf i (s.respond .written)
        | .error _ => (s.respond .written).report .illegalCommand) := by
  have : hostWrite 0x00 4 v s = writeCmd v (s.respond .written) := by
    simp [hostWrite, hostAccess, inWindow, refusedAccess, h, regAt, writeReg]
  rw [this, writeCmd_idle (by simpa using h) (by simpa using hj)]

theorem hostWrite_cmd_busy {v : Word} {s : State} (h : s.inReset = false) (hj : s.job ≠ .none) :
    hostWrite 0x00 4 v s = .next (s.respond .written).drop := by
  have : hostWrite 0x00 4 v s = writeCmd v (s.respond .written) := by
    simp [hostWrite, hostAccess, inWindow, refusedAccess, h, regAt, writeReg]
  rw [this, writeCmd_busy (by simpa using hj)]

/-- Only offset 0 is CMD. -/
theorem regAt_eq_cmd_iff (off : Nat) : regAt off = .cmd ↔ off = 0 := by
  unfold regAt
  repeat' split
  all_goals simp_all

end Sys2Proof.Machine
end

