-- ==== Sys2Proof/Laws/PerInstr.lean ====
section
/-! SUPPORT. Laws/PerInstr.lean: what holds of every command as syntax, one lemma per constructor. -/

namespace Sys2Proof.Laws.Encoded

/-- The encoding of a well-formed command has the fields of its row of R60, is the command's row of the table of R61,
and names the command by that row's mnemonic. -/
def Statement (i : Instr) : Prop :=
  i.wellFormed = true →
    opcField (encode i) = opcode i ∧ imm8Field (encode i) = operandByte i ∧ rsvField (encode i) = 0 ∧
      ∃ row ∈ opcodeTable, row.name = mnemonic i ∧ row.selectedBy (encode i) = true

/-- The fields hold of every command; what is left is its row. -/
theorem of_row {i : Instr} (row : OpcodeRow) (hmem : row ∈ opcodeTable) (hname : row.name = mnemonic i)
    (hsel : i.wellFormed = true → row.selectedBy (encode i) = true) : Statement i := fun h =>
  ⟨opcField_encode i, imm8Field_encode i, rsvField_encode i, row, hmem, hname, hsel h⟩

theorem nop : Statement .nop := of_row ⟨"NOP", 0x00000000, 0xFFFFFFFF⟩ (by decide) rfl (by decide)

theorem clrStatus : Statement .clrStatus :=
  of_row ⟨"CLR_STATUS", 0x00000001, 0xFFFFFFFF⟩ (by decide) rfl (by decide)

theorem encrypt : Statement .encrypt := of_row ⟨"ENCRYPT", 0x00000010, 0xFFFFFFFF⟩ (by decide) rfl (by decide)

theorem decrypt : Statement .decrypt := of_row ⟨"DECRYPT", 0x00000011, 0xFFFFFFFF⟩ (by decide) rfl (by decide)

theorem hashInit : Statement .hashInit :=
  of_row ⟨"HASH_INIT", 0x00000020, 0xFFFFFFFF⟩ (by decide) rfl (by decide)

theorem hashByte : ∀ b : Byte, Statement (.hashByte b) := fun b =>
  of_row ⟨"HASH_BYTE", 0x00000021, 0xFFFF00FF⟩ (by decide) rfl
    (by revert b; decide +kernel)

theorem hashFinal : Statement .hashFinal :=
  of_row ⟨"HASH_FINAL", 0x00000022, 0xFFFFFFFF⟩ (by decide) rfl (by decide)

theorem keyClear : Statement .keyClear :=
  of_row ⟨"KEY_CLEAR", 0x00000030, 0xFFFFFFFF⟩ (by decide) rfl (by decide)

theorem keyChar : ∀ c : Byte, Statement (.keyChar c) := fun c =>
  of_row ⟨"KEY_CHAR", 0x00000031, 0xFFFF00FF⟩ (by decide) rfl
    (by revert c; decide +kernel)

theorem keyCommit : Statement .keyCommit :=
  of_row ⟨"KEY_COMMIT", 0x00000032, 0xFFFFFFFF⟩ (by decide) rfl (by decide)

theorem keyWord : ∀ idx : Byte, Statement (.keyWord idx) := fun idx =>
  of_row ⟨"KEY_WORD", 0x00000033, 0xFFFFF8FF⟩ (by decide) rfl
    (by revert idx; decide +kernel)

end Sys2Proof.Laws.Encoded
end

