-- ==== Sys2Proof/Laws/Step.lean ====
section
/-! SUPPORT. Laws/Step.lean: all that one step can do, once, for every invariant and every whole-machine rule. -/

namespace Sys2Proof.Machine

theorem SameCore.refl (s : State) : SameCore s s := rfl

/-- A read changes only the answer of the bus and the model's counter of free values (R42). -/
theorem hostRead_next {off : Int} {n : Nat} {s t : State} (h : hostRead off n s = .next t) :
    t = { s with reply := t.reply, freeIdx := t.freeIdx } := by
  simp only [hostRead, hostAccess] at h
  repeat' split at h
  all_goals cases h
  all_goals rfl

/-- A host's turn that answers a next state: it changes nothing of the CORE, or writes one data register, or has
its command word dropped, or has it accepted (R16, R42, R43). -/
theorem hostTurn_cases {s t : State} (h : hostTurn s = .next t) :
    SameCore s t ∨
    (∃ off v rest, s.inReset = false ∧ s.hostQueue = .write off 4 v :: rest ∧
      (t = { s with hostQueue := rest, reply := .written, data := v } ∨
        t = { s with hostQueue := rest, reply := .written, blkIn0 := v } ∨
        t = { s with hostQueue := rest, reply := .written, blkIn1 := v })) ∨
    (∃ w rest, s.inReset = false ∧ s.job ≠ .none ∧ s.hostQueue = .write 0x00 4 w :: rest ∧
      t = { s with hostQueue := rest, reply := .written, ovr := true }) ∨
    (∃ w rest, s.inReset = false ∧ s.job = .none ∧ s.hostQueue = .write 0x00 4 w :: rest ∧
      t = match decode w with
        | .ok i => effectOf i { s with hostQueue := rest, reply := .written }
        | .error _ => { s with hostQueue := rest, reply := .written, err := .illegalCommand }) := by
  unfold hostTurn at h
  split at h
  · cases h; exact .inl rfl
  · left
    have h' := hostRead_next h
    simp only [SameCore]
    rw [h']
  · rename_i off n v rest hq
    by_cases hw : inWindow off = true
    swap
    · simp [hostWrite, hostAccess, hw] at h
    by_cases hr : s.inReset = true
    · simp only [hostWrite] at h
      rw [hostAccess_held hw (by simpa using hr)] at h
      cases h; exact .inl rfl
    have hr' : s.inReset = false := by simpa using hr
    by_cases hf : refusedAccess off n = true
    · simp only [hostWrite] at h
      rw [hostAccess_refused hw (by simpa using hr') hf] at h
      cases h; exact .inl rfl
    have hn : n = 4 := by
      simp [refusedAccess] at hf; exact hf.1
    subst hn
    simp only [hostWrite] at h
    rw [hostAccess_taken hw (by simpa using hr') (by simpa using hf)] at h
    cases hreg : regAt off.toNat with
    | cmd =>
      have h0 : off = 0 := by
        have := (regAt_eq_cmd_iff _).mp hreg
        simp [inWindow] at hw
        omega
      subst h0
      rw [hreg] at h
      simp only [writeReg] at h
      by_cases hj : s.job = .none
      · rw [writeCmd_idle (by simpa using hr') (by simpa using hj)] at h
        cases h
        exact .inr (.inr (.inr ⟨v, rest, hr', hj, hq, rfl⟩))
      · rw [writeCmd_busy (by simpa using hj)] at h
        cases h
        exact .inr (.inr (.inl ⟨v, rest, hr', hj, hq, rfl⟩))
    | data =>
      rw [hreg] at h; simp only [writeReg] at h; cases h
      exact .inr (.inl ⟨off, v, rest, hr', hq, .inl rfl⟩)
    | blkIn0 =>
      rw [hreg] at h; simp only [writeReg] at h; cases h
      exact .inr (.inl ⟨off, v, rest, hr', hq, .inr (.inl rfl)⟩)
    | blkIn1 =>
      rw [hreg] at h; simp only [writeReg] at h; cases h
      exact .inr (.inl ⟨off, v, rest, hr', hq, .inr (.inr rfl)⟩)
    | _ => rw [hreg] at h; simp only [writeReg] at h; cases h; exact .inl rfl
  · left
    simp only [hostWait] at h
    split at h
    · rename_i u hu
      have hu' := hostRead_next hu
      cases h
      simp only [SameCore]
      split <;> rw [hu']
    · cases h
    · cases h

/-- One step that answers a next state: whose turn it was and what was done (R16, R17, R122). -/
theorem step_cases {s t : State} (h : step s = .next t) :
    (s.nextTurn = .host ∧ hostTurn s.popTurn = .next t) ∨
    (s.nextTurn = .engine ∧ t = engineTurn s.popTurn) ∨
    (s.nextTurn = .reset ∧ t = platformReset false s.popTurn) ∨
    (s.nextTurn = .holdReset ∧ t = platformReset true s.popTurn) ∨
    (s.nextTurn = .releaseReset ∧ t = { s.popTurn with inReset := false }) := by
  unfold step takeTurn at h
  split at h
  · rename_i hn; exact .inl ⟨hn, h⟩
  · rename_i hn; cases h; exact .inr (.inl ⟨hn, rfl⟩)
  · rename_i hn; cases h; exact .inr (.inr (.inl ⟨hn, rfl⟩))
  · rename_i hn; cases h; exact .inr (.inr (.inr (.inl ⟨hn, rfl⟩)))
  · rename_i hn; cases h; exact .inr (.inr (.inr (.inr ⟨hn, rfl⟩)))

/-- All that a step can do to the CORE, in one case split: nothing (a read, a refused or ignored access, an idle turn),
a data register written, a word dropped, a word accepted, an engine step, a reset, a reset released. -/
theorem step_core_cases {s t : State} (h : step s = .next t) :
    SameCore s t ∨
    (∃ v, s.inReset = false ∧
      (t = { s with data := v, hostQueue := t.hostQueue, turns := t.turns, reply := .written } ∨
        t = { s with blkIn0 := v, hostQueue := t.hostQueue, turns := t.turns, reply := .written } ∨
        t = { s with blkIn1 := v, hostQueue := t.hostQueue, turns := t.turns, reply := .written })) ∨
    (∃ w rest, s.nextTurn = .host ∧ s.inReset = false ∧ s.job ≠ .none ∧ s.hostQueue = .write 0x00 4 w :: rest ∧
      t = { s with turns := s.turns.tail, hostQueue := rest, reply := .written, ovr := true }) ∨
    (∃ w rest, s.nextTurn = .host ∧ s.inReset = false ∧ s.job = .none ∧ s.hostQueue = .write 0x00 4 w :: rest ∧
      t = match decode w with
        | .ok i => effectOf i { s with turns := s.turns.tail, hostQueue := rest, reply := .written }
        | .error _ =>
          { s with turns := s.turns.tail, hostQueue := rest, reply := .written, err := .illegalCommand }) ∨
    (s.nextTurn = .engine ∧ s.inReset = false ∧ s.job ≠ .none ∧ t = engineStep s.popTurn) ∨
    (ResetStep s ∧ ∃ held, t = platformReset held s.popTurn) ∨
    (s.nextTurn = .releaseReset ∧ t = { s.popTurn with inReset := false }) := by
  rcases step_cases h with ⟨hn, h⟩ | ⟨hn, rfl⟩ | ⟨hn, rfl⟩ | ⟨hn, rfl⟩ | ⟨hn, rfl⟩
  · rcases hostTurn_cases h with hs | ⟨off, v, rest, hr, hq, ht⟩ | ⟨w, rest, hr, hj, hq, ht⟩ |
      ⟨w, rest, hr, hj, hq, ht⟩
    · exact .inl hs
    · refine .inr (.inl ⟨v, hr, ?_⟩)
      rcases ht with rfl | rfl | rfl
      · exact .inl rfl
      · exact .inr (.inl rfl)
      · exact .inr (.inr rfl)
    · exact .inr (.inr (.inl ⟨w, rest, hn, hr, hj, hq, ht⟩))
    · exact .inr (.inr (.inr (.inl ⟨w, rest, hn, hr, hj, hq, ht⟩)))
  · by_cases hr : s.inReset = true
    · left; simp [engineTurn, hr]; exact rfl
    · by_cases hj : s.job = .none
      · left
        have : engineTurn s.popTurn = s.popTurn := by
          simp [engineTurn, engineStep, hj]
        rw [this]; exact rfl
      · refine .inr (.inr (.inr (.inr (.inl ⟨hn, by simpa using hr, hj, ?_⟩))))
        simp [engineTurn, hr]
  · exact .inr (.inr (.inr (.inr (.inr (.inl ⟨.inl hn, false, rfl⟩)))))
  · exact .inr (.inr (.inr (.inr (.inr (.inl ⟨.inr hn, true, rfl⟩)))))
  · exact .inr (.inr (.inr (.inr (.inr (.inr ⟨hn, rfl⟩)))))

/-- When a word is accepted in a step (R97). -/
theorem acceptsWord_iff (s : State) (w : Word) :
    AcceptsWord s w ↔
      s.nextTurn = .host ∧ s.inReset = false ∧ s.job = .none ∧ ∃ rest, s.hostQueue = .write 0x00 4 w :: rest := by
  unfold AcceptsWord acceptedWord
  constructor
  · intro h
    split at h
    · rename_i hc
      split at h
      · cases h
      · cases h
      · rename_i off n v rest hq
        split at h
        · rename_i h0
          obtain ⟨rfl, rfl⟩ := h0
          cases h
          exact ⟨hc.1, hc.2.1, hc.2.2, rest, hq⟩
        · cases h
      · cases h
    · cases h
  · rintro ⟨h1, h2, h3, rest, h4⟩
    simp [h1, h2, h3, h4]

/-- The step that accepts a word (R97). -/
theorem step_accepted {s : State} {w : Word} {rest : List HostOp} (hn : s.nextTurn = .host)
    (hr : s.inReset = false) (hj : s.job = .none) (hq : s.hostQueue = .write 0x00 4 w :: rest) :
    step s = .next (match decode w with
      | .ok i => effectOf i { s with turns := s.turns.tail, hostQueue := rest, reply := .written }
      | .error _ =>
        { s with turns := s.turns.tail, hostQueue := rest, reply := .written, err := .illegalCommand }) := by
  have h1 : step s = hostWrite 0x00 4 w { s with turns := s.turns.tail, hostQueue := rest } := by
    simp [step, hn, takeTurn, hostTurn, hq, State.popTurn]
  rw [h1]
  exact hostWrite_cmd_idle (s := { s with turns := s.turns.tail, hostQueue := rest }) hr hj

end Sys2Proof.Machine
end

