-- ==== Sys2Proof/Tests/Slice0.lean ====
section
/-! SUPPORT. Tests/Slice0.lean: the model's own tests. Every expected value is the spec's: the words of 30_encoding.md R60
and R61, the worked examples of the rules, and the vectors of 95_test_vectors.md. Then one witness for the hypotheses
of each obligation that has any. -/

namespace Sys2Proof.Tests

open Sys2Proof.Machine

/-! ### Helpers -/

/-- The outcome is a next state of which `p` holds. -/
def nextAnd (o : Host.Outcome State Fault Refusal) (p : State → Bool) : Bool :=
  match o with
  | .next t => p t
  | .fault _ => false
  | .refused _ => false

theorem exists_of_nextAnd {o : Host.Outcome State Fault Refusal} {p : State → Bool} (h : nextAnd o p = true) :
    ∃ t, o = .next t ∧ p t = true := by
  cases o with
  | next t => exact ⟨t, rfl, h⟩
  | fault r => cases h
  | refused r => cases h

/-- SBOX_T of 95_test_vectors.md section 1: a test table, not the hardware's (log entry 19). -/
def sboxT : SBox :=
  #v[#v[4, 10, 9, 2, 13, 8, 0, 14, 6, 11, 1, 12, 7, 15, 5, 3],
     #v[14, 11, 4, 12, 6, 13, 15, 10, 2, 3, 8, 1, 0, 7, 5, 9],
     #v[5, 8, 1, 13, 10, 3, 4, 2, 14, 15, 12, 7, 6, 0, 9, 11],
     #v[7, 13, 10, 1, 0, 8, 9, 15, 14, 4, 6, 12, 11, 2, 5, 3],
     #v[6, 12, 7, 1, 5, 15, 13, 8, 4, 10, 9, 14, 0, 3, 11, 2],
     #v[4, 11, 10, 0, 7, 2, 1, 13, 3, 6, 8, 5, 9, 12, 15, 14],
     #v[13, 11, 4, 1, 3, 15, 5, 9, 0, 10, 14, 7, 6, 8, 2, 12],
     #v[1, 15, 13, 0, 5, 7, 10, 4, 9, 2, 3, 14, 6, 11, 8, 12]]

/-- SBOX_ID of 95_test_vectors.md section 1. -/
def sboxId : SBox := Vector.replicate 8 #v[0, 1, 2, 3, 4, 5, 6, 7, 8, 9, 10, 11, 12, 13, 14, 15]

/-- The key KC of 95_test_vectors.md section 1. -/
def keyKC : KeyWords :=
  #v[0x01234567, 0x89ABCDEF, 0xFEDCBA98, 0x76543210, 0x0F1E2D3C, 0x4B5A6978, 0x8796A5B4, 0xC3D2E1F0]

/-- The key KB, which is symmetric. -/
def keyKB : KeyWords := Vector.replicate 8 0xFFFFFFFF

/-- The block `I` of 95_test_vectors.md section 1. -/
def blockI : Block := #v[0, 1, 2, 3, 4, 5, 6, 7]

/-- After reset, the ROM holding SBOX_T. -/
def fresh : State := { State.reset with sbox := sboxT }

/-- KC loaded, idle. -/
def keyed : State := { fresh with key := keyKC, kmask := 0xFF }

/-- KC loaded, absorbing, `n` bytes of "12345678" buffered. -/
def absorbing (n : BitVec 3) : State :=
  { keyed with phase := .absorb, buf := #v[0x31, 0x32, 0x33, 0x34, 0x35, 0x36, 0x37, 0x38], bufcnt := n }

/-- An ENC job on the block `I` before round `r`. -/
def ciphering (r : BitVec 5) : State :=
  { keyed with job := .enc, left := 0x03020100, right := 0x07060504, rnd := r }

/-- An HFIN job before its completing step, with `M` all zeros. -/
def finishing : State := { absorbing 0 with job := .hfin, rnd := 31 }

/-- The characters of a hexadecimal string, as bytes. -/
def chars (l : List Char) : List Byte := l.map fun c => BitVec.ofNat 8 c.toNat

/-- The 64 characters of KC, in mixed case. -/
def charsKC : List Byte :=
  chars ['0', '1', '2', '3', '4', '5', '6', '7', '8', '9', 'a', 'b', 'c', 'd', 'e', 'f'] ++
  chars ['F', 'E', 'D', 'C', 'B', 'A', '9', '8', '7', '6', '5', '4', '3', '2', '1', '0'] ++
  chars ['0', 'F', '1', 'E', '2', 'D', '3', 'C', '4', 'B', '5', 'A', '6', '9', '7', '8'] ++
  chars ['8', '7', '9', '6', 'A', '5', 'B', '4', 'C', '3', 'D', '2', 'E', '1', 'F', '0']

/-- 63 zeros and a G: 64 characters, one bad (95_test_vectors.md section 5.3). -/
def charsBad : List Byte := List.replicate 63 0x30 ++ [0x47]

/-! ### WellFormed refuses what the encoding does not have -/

theorem test_wellFormed_keyWord_7 : (Instr.keyWord 7).wellFormed = true := by decide
theorem test_illFormed_keyWord_8 : (Instr.keyWord 8).wellFormed = false := by decide
theorem test_illFormed_keyWord_255 : (Instr.keyWord 255).wellFormed = false := by decide
theorem test_wellFormed_hashByte_255 : (Instr.hashByte 255).wellFormed = true := by decide

/-! ### Decoding: words from R60 and R61 (95_test_vectors.md section 6.1), both ways -/

theorem test_decode_nop : decode 0x00000000 = .ok .nop := by rfl
theorem test_decode_clrStatus : decode 0x00000001 = .ok .clrStatus := by rfl
theorem test_decode_encrypt : decode 0x00000010 = .ok .encrypt := by rfl
theorem test_decode_decrypt : decode 0x00000011 = .ok .decrypt := by rfl
theorem test_decode_hashInit : decode 0x00000020 = .ok .hashInit := by rfl
theorem test_decode_hashByte : decode 0x0000FF21 = .ok (.hashByte 0xFF) := by rfl
theorem test_decode_hashFinal : decode 0x00000022 = .ok .hashFinal := by rfl
theorem test_decode_keyClear : decode 0x00000030 = .ok .keyClear := by rfl
theorem test_decode_keyChar : decode 0x00004131 = .ok (.keyChar 0x41) := by rfl
theorem test_decode_keyCommit : decode 0x00000032 = .ok .keyCommit := by rfl
theorem test_decode_keyWord : decode 0x00000733 = .ok (.keyWord 7) := by rfl
theorem test_decode_nop_imm : decode 0x00000100 = .error .operandNotZero := by rfl
theorem test_decode_reserved_02 : decode 0x00000002 = .error .reservedOpcode := by rfl
theorem test_decode_reserved_34 : decode 0x00000034 = .error .reservedOpcode := by rfl
theorem test_decode_rsv : decode 0x00010021 = .error .reservedBits := by rfl
theorem test_decode_rsv_top : decode 0x80000010 = .error .reservedBits := by rfl
theorem test_decode_index_8 : decode 0x00000833 = .error .indexTooLarge := by rfl
theorem test_decode_index_f8 : decode 0x0000F833 = .error .indexTooLarge := by rfl
theorem test_encode_hashByte : encode (.hashByte 0x61) = 0x00006121 := by decide
theorem test_encode_keyWord : encode (.keyWord 5) = 0x00000533 := by decide
theorem test_decodeTableWord : decodeTableWord 32 0x00000333 = some (.keyWord 3) := by decide

/-! ### The cipher's functions (95_test_vectors.md section 3) -/

theorem test_subst_zero : subst sboxT 0x00000000 = 0x1D4675E4 := by decide
theorem test_subst_lanes : subst sboxT 0x12345678 = 0xF40584A6 := by decide
theorem test_rol32 : rol32 0x12345678 11 = 0xA2B3C091 := by decide
theorem test_roundFn : roundFn sboxT 0x00112233 0x44556677 = 0xEF740A98 := by decide
theorem test_encryptBlock : encryptBlock sboxT keyKC blockI = #v[0xcb, 0x0f, 0x06, 0x9f, 0x20, 0x27, 0x57, 0xfe] := by
  decide +kernel
theorem test_decryptBlock : decryptBlock sboxT keyKC blockI = #v[0x0a, 0x8c, 0x24, 0xf5, 0x22, 0xb2, 0xea, 0xb1] := by
  decide +kernel
theorem test_encryptBlock_id :
    encryptBlock sboxId (Vector.replicate 8 0) blockI = #v[0x39, 0x06, 0x53, 0x6c, 0xed, 0xd3, 0x85, 0xbb] := by
  decide +kernel

/-! ### The digest's functions (95_test_vectors.md sections 4.2 and 5) -/

theorem test_hash_empty : hash sboxT keyKC [] = #v[0x0b, 0x4b, 0x77, 0x07, 0xf2, 0xe3, 0x78, 0x72] := by decide +kernel
theorem test_hash_abc :
    hash sboxT keyKC [0x61, 0x62, 0x63] = #v[0xef, 0xaa, 0xf7, 0xa0, 0xd1, 0x55, 0x0f, 0x23] := by decide +kernel
theorem test_hash_two_blocks :
    hash sboxT keyKC [0x31, 0x32, 0x33, 0x34, 0x35, 0x36, 0x37, 0x38, 0x39] =
      #v[0x74, 0xa6, 0x78, 0xd2, 0x8c, 0x2e, 0xe4, 0xa9] := by decide +kernel
theorem test_renderDigest :
    renderDigest #v[0x0b, 0x4b, 0x77, 0x07, 0xf2, 0xe3, 0x78, 0x72] = "0b4b7707f2e37872" := by decide +kernel

/-! ### Key parsing (95_test_vectors.md sections 5.1 and 5.3) -/

theorem test_hexval_bounds :
    [0x2F, 0x30, 0x39, 0x3A, 0x40, 0x41, 0x46, 0x47, 0x60, 0x61, 0x66, 0x67].map hexval =
      [none, some 0, some 9, none, none, some 10, some 15, none, none, some 10, some 15, none] := by decide
theorem test_parseKey_kc : parseKey charsKC = .ok keyKC := by rfl
theorem test_parseKey_bad : parseKey charsBad = .error .invalidKeyEncoding := by rfl

/-! ### One step of each command (95_test_vectors.md sections 3.6, 4.5, 5.2 to 5.5, 6.3) -/

theorem test_nop_reports_ok :
    nextAnd (exec .nop { fresh with err := .keyNotLoaded }) (fun t => t.status == 0x00000000) = true := by decide
theorem test_nop_dropped :
    nextAnd (exec .nop { ciphering 5 with phase := .done }) (fun t => t.status == 0x00FF001B && t.rnd == 5) = true := by
  decide
theorem test_clrStatus :
    nextAnd (exec .clrStatus { keyed with phase := .done, ovr := true }) (fun t => t.status == 0x00FF000A) = true := by
  decide
theorem test_encrypt_no_key : nextAnd (exec .encrypt fresh) (fun t => t.status == 0x00000300) = true := by decide
theorem test_encrypt_starts :
    nextAnd (exec .encrypt { keyed with blkIn0 := 0x03020100, blkIn1 := 0x07060504 })
      (fun t => t.status == 0x00FF0003 && t.left == 0x03020100 && t.right == 0x07060504) = true := by decide
theorem test_decrypt_no_key : nextAnd (exec .decrypt fresh) (fun t => t.status == 0x00000300) = true := by decide
theorem test_decrypt_starts :
    nextAnd (exec .decrypt { keyed with blkIn0 := 0x9F060FCB }) (fun t => t.job == .dec && t.left == 0x9F060FCB) = true :=
  by decide
theorem test_hashInit_no_key : nextAnd (exec .hashInit fresh) (fun t => t.status == 0x00000300) = true := by decide
theorem test_hashInit_abandons :
    nextAnd (exec .hashInit { absorbing 3 with acc := blockI })
      (fun t => t.status == 0x00FF0006 && readReg .dig0 t == 0 && readReg .dig1 t == 0) = true := by decide
theorem test_hashByte_idle :
    nextAnd (exec (.hashByte 0x61) fresh) (fun t => t.status == 0x00000500) = true := by decide
theorem test_hashByte_completes :
    nextAnd (exec (.hashByte 0x38) (absorbing 7))
      (fun t => t.status == 0x00FF0007 && t.left == 0x34333231 && t.right == 0x38373635) = true := by decide
theorem test_hashFinal_idle :
    nextAnd (exec .hashFinal keyed) (fun t => t.err == .hashNotActive) = true := by decide
theorem test_hashFinal_pads :
    nextAnd (exec .hashFinal (absorbing 3))
      (fun t => t.status == 0x00FF0007 && t.mblk == #v[0x31, 0x32, 0x33, 5, 5, 5, 5, 5]) = true := by decide
theorem test_keyClear : nextAnd (exec .keyClear { keyed with phase := .done }) (fun t => t.status == 0x00000008) = true :=
  by decide
theorem test_keyClear_locked : nextAnd (exec .keyClear (absorbing 0)) (fun t => t.status == 0x00FF0606) = true := by
  decide
theorem test_keyChar_a :
    nextAnd (exec (.keyChar 0x61) fresh) (fun t => t.kstage[0] == 0xA0000000 && t.status == 0x01000000) = true := by
  decide
theorem test_keyChar_ninth :
    nextAnd (exec (.keyChar 0x38) { fresh with kcnt := 8 })
      (fun t => t.kstage[1] == 0x80000000 && t.status == 0x09000000) = true := by decide
theorem test_keyCommit_ok :
    nextAnd (exec .keyCommit { fresh with kstage := keyKC, kcnt := 64 })
      (fun t => t.status == 0x00FF0002 && t.key == keyKC) = true := by decide
theorem test_keyCommit_length_before_encoding :
    nextAnd (exec .keyCommit { keyed with kcnt := 65, kbad := true })
      (fun t => t.status == 0x00000100 && t.key == keyKC) = true := by decide
theorem test_keyWord_3 :
    nextAnd (exec (.keyWord 3) { fresh with data := 0x11111111 })
      (fun t => t.status == 0x00080000 && t.key[3] == 0x11111111) = true := by decide
theorem test_keyWord_last :
    nextAnd (exec (.keyWord 5) { keyed with kmask := 0xDF }) (fun t => t.status == 0x00FF0002) = true := by decide

/-! ### The engine (95_test_vectors.md sections 3.4 and 4.3) -/

theorem test_round_0 :
    (engineStep (ciphering 0)).left = 0x7F21F599 ∧ (engineStep (ciphering 0)).right = 0x03020100 := by decide
theorem test_round_24 :
    let t := engineStep { ciphering 24 with left := 0xBD3C1A4E, right := 0xE35BEF6E }
    t.left = 0xBAEDC3B4 ∧ t.right = 0xBD3C1A4E := by decide
theorem test_round_31 :
    let t := engineStep { ciphering 31 with left := 0x9F060FCB, right := 0xAA496ECD }
    t.blkOut0 = 0x9F060FCB ∧ t.blkOut1 = 0xFE572720 ∧ t.job = .none ∧ t.rnd = 0 := by decide

/-! ### The register window and reset (95_test_vectors.md sections 7 and 8) -/

theorem test_read_reserved :
    nextAnd (hostRead 0xFC 4 keyed) (fun t => t.reply == .data 0) = true := by decide
theorem test_read_dig :
    nextAnd (hostRead 0x20 4 { keyed with acc := #v[0x0b, 0x4b, 0x77, 0x07, 0xf2, 0xe3, 0x78, 0x72] })
      (fun t => t.reply == .data 0x07774B0B) = true := by decide
theorem test_read_key7 : nextAnd (hostRead 0x5C 4 keyed) (fun t => t.reply == .data 0xC3D2E1F0) = true := by decide
theorem test_write_key0_ignored :
    nextAnd (hostWrite 0x40 4 0x12345678 keyed) (fun t => t == { keyed with reply := .written }) = true := by decide
theorem test_read_misaligned : hostRead 0x06 4 keyed = .next { keyed with reply := .busError (Config.base + 0x06) } := by
  rfl
theorem test_write_byte_to_cmd :
    hostWrite 0x00 1 0x10 keyed = .next { keyed with reply := .busError (Config.base + 0x00) } := by rfl
theorem test_busy_illegal_word_dropped :
    nextAnd (hostWrite 0x00 4 0xFFFFFFFF (ciphering 5)) (fun t => t == { ciphering 5 with reply := .written, ovr := true }) =
      true := by decide
theorem test_reset_abandons_job :
    nextAnd (step { ciphering 17 with turns := [.reset] }) (fun t => t == fresh) = true := by decide
theorem test_withFetchWord_runs :
    nextAnd (step (State.reset.withFetchWord 32 0x00000010)) (fun t => t.err == .keyNotLoaded) = true := by decide

/-! ### Witnesses of the obligations' hypotheses -/

theorem witness_DecodeInvertsEncode :
    (Instr.keyWord 7).wellFormed = true ∧ (Instr.keyWord 0).wellFormed = true ∧ (Instr.hashByte 0xFF).wellFormed = true :=
  by decide

theorem witness_DecodedWordIsItsEncoding : decode 0x00000733 = .ok (.keyWord 7) := by rfl

theorem witness_DecodeSelectsUniqueTableRow :
    decode 0x0000FF31 = .ok (.keyChar 0xFF) ∧ decode 0x00000833 = .error .indexTooLarge := ⟨rfl, rfl⟩

theorem witness_IllegalWordOnlyReportsError :
    decode 0x00010000 = .error .reservedBits ∧ decode 0x000000FF = .error .reservedOpcode ∧
      decode 0x00000110 = .error .operandNotZero ∧ decode 0x00000833 = .error .indexTooLarge ∧
      fresh.inReset = false ∧ fresh.job = .none := ⟨rfl, rfl, rfl, rfl, rfl, rfl⟩

theorem witness_StepRunsDecodedCommand :
    let s := { keyed with turns := [.host], hostQueue := [.write 0x00 4 0x00000733] }
    s.inReset = false ∧ s.nextTurn = .host ∧ s.hostQueue = [.write 0x00 4 0x00000733] ∧
      decode 0x00000733 = .ok (.keyWord 7) := ⟨rfl, rfl, rfl, rfl⟩

theorem witness_ResetGivesResetValues : ({ ciphering 17 with turns := [.reset] } : State).turns = [.reset] := rfl

theorem witness_HeldResetTakesNoAccess :
    let s := { fresh with inReset := true, turns := [.engine] }
    (s.inReset = true ∧ s.nextTurn = .engine) ∧ (0 : Int) ≤ 0 ∧ (0xFF : Int) ≤ 0xFF ∧
      { keyed with turns := [.holdReset] }.nextTurn = .holdReset ∧
      { s with turns := [.releaseReset] }.nextTurn = .releaseReset := by decide

theorem rows_sboxT : rowsArePermutations sboxT := by
  unfold rowsArePermutations
  decide +kernel

/-- A state in which every clause of the invariant has something to say: an HFIN job about to complete. -/
theorem witness_StepKeepsInv :
    let s := { finishing with turns := [.engine] }
    Inv s ∧ ∃ t, step s = .next t ∧ (t.phase == .done) = true :=
  ⟨⟨by decide, by decide, by decide, by decide, by decide, by decide, rows_sboxT, nofun⟩,
    exists_of_nextAnd (by decide)⟩

theorem witness_RomNeverChanges : ∃ t, step { ciphering 17 with turns := [.reset] } = .next t ∧ (t == fresh) = true :=
  exists_of_nextAnd (by decide)

theorem witness_KeyWrittenOnlyByKeyCommands :
    ∃ t, step { keyed with hostQueue := [writeCommand .keyClear] } = .next t ∧
      (t.key != keyKC && t.kmask != 0xFF) = true := exists_of_nextAnd (by decide)

theorem witness_ResultsWrittenOnlyByTheirJobs :
    (∃ t, step { finishing with mblk := blockI, turns := [.engine] } = .next t ∧ (t.acc != finishing.acc) = true) ∧
      ∃ t, step (ciphering 31) = .next t ∧ (t.blkOut0 != 0 && t.blkOut1 != 0) = true :=
  ⟨exists_of_nextAnd (by decide), exists_of_nextAnd (by decide)⟩

theorem witness_ErrWrittenOnlyByAcceptedWords :
    let s := { fresh with hostQueue := [writeCommand .encrypt] }
    (∃ t, step s = .next t ∧ (t.err != s.err) = true) ∧ AcceptsWord s 0x00000010 :=
  ⟨exists_of_nextAnd (by decide), by unfold AcceptsWord; decide⟩

theorem witness_PhaseLeavesAbsorbOnlyAtEnd :
    (∃ t, step finishing = .next t ∧ (t.phase == .done) = true) ∧ finishing.phase = .absorb ∧
      ∃ t, step { absorbing 3 with turns := [.holdReset] } = .next t ∧ (t.phase == .idle) = true :=
  ⟨exists_of_nextAnd (by decide), rfl, exists_of_nextAnd (by decide)⟩

theorem witness_StatusShowsItsFields : keyed.inReset = false := rfl

theorem witness_ReadReturnsRegisterContent :
    keyed.inReset = false ∧
      ∀ off ∈ ([0x0C, 0x28, 0x3C, 0x60, 0xFC] : List Int),
        off % 4 = 0 ∧ (off = 0x0C ∨ (0x28 ≤ off ∧ off ≤ 0x3C) ∨ (0x60 ≤ off ∧ off ≤ 0xFC)) := by decide

theorem witness_WriteFollowsRegisterMap :
    keyed.inReset = false ∧ keyed.job = .none ∧ (ciphering 0).job ≠ .none ∧
      (∀ off ∈ ([0x04, 0x0C, 0x18, 0xFC] : List Int),
        0 ≤ off ∧ off ≤ 0xFC ∧ off % 4 = 0 ∧ off ≠ 0x00 ∧ off ≠ 0x08 ∧ off ≠ 0x10 ∧ off ≠ 0x14) ∧
      decode 0x00000030 = .ok .keyClear ∧ decode 0x00000031 = .ok (.keyChar 0) ∧
      decode 0x00000034 = .error .reservedOpcode := ⟨rfl, rfl, by decide, by decide, rfl, rfl, rfl⟩

theorem witness_RefusedAccessRaisesBusError :
    keyed.inReset = false ∧
      ∀ a ∈ ([(0x00, 1), (0x04, 2), (0x01, 4), (0xFF, 4), (0xFC, 8), (0x00, 0)] : List (Int × Nat)),
        0 ≤ a.1 ∧ a.1 ≤ 0xFF ∧ (a.2 ≠ 4 ∨ a.1 % 4 ≠ 0) := by decide

theorem witness_BusErrorOnlyForRefusedAccess :
    let s := { keyed with hostQueue := [.write 0x00 1 0x10] }
    s.inReset = false ∧ step s = .next { keyed with reply := .busError (Config.base + 0x00) } ∧
      s.reply ≠ .busError (Config.base + 0x00) := ⟨rfl, rfl, by intro h; cases h⟩

theorem witness_OnlyForeignAccessStops :
    step { keyed with hostQueue := [.read (-1) 4] } = .fault (.outsideWindow (-1)) ∧
      step { keyed with hostQueue := [.write 0x100 4 0] } = .fault (.outsideWindow 0x100) := ⟨rfl, rfl⟩

theorem witness_SafeRunNeverStops :
    Safe { keyed with hostQueue := [.read 0x00 4, .write 0xFF 4 1, .wait], turns := [.reset, .host] } := by
  unfold Safe; decide

theorem witness_HostWriteCommutesWithEngineStep :
    (ciphering 30).inReset = false ∧ (ciphering 30).job ≠ .none ∧ (ciphering 30).rnd ≠ 31 ∧
      (∃ t, hostWrite 0x00 4 0x00000000 (ciphering 30) = .next t ∧ t.ovr = true) ∧
      ∃ t, hostWrite 0x08 4 0x00000001 (ciphering 31) = .next t ∧ (t.data == 1) = true :=
  ⟨rfl, by decide, by decide, exists_of_nextAnd (by decide), exists_of_nextAnd (by decide)⟩

theorem witness_CompletionOrderDecidesDrop :
    (ciphering 31).inReset = false ∧ (ciphering 31).job ≠ .none ∧ (ciphering 31).rnd = 31 ∧
      decode 0x00000020 = .ok .hashInit := ⟨rfl, by decide, rfl, rfl⟩

theorem witness_SubstitutionActsByLanes :
    rowsArePermutations sboxT ∧ ∀ (j : Fin 8) (n : Fin 16), sboxId[j][n] = BitVec.ofFin n :=
  ⟨rows_sboxT, by decide⟩

theorem witness_RoundFunctionAddsSubstitutesRotates :
    (0 < 32 ∧ 31 < 32) ∧ ∀ (j : Fin 8) (n : Fin 16), sboxId[j][n] = BitVec.ofFin n := by decide

theorem witness_SymmetricKeyMakesCipherInvolution : ∀ i : Fin 8, keyKB[i] = keyKB[7 - i.val] := by decide

theorem witness_EngineStepRunsOneRound :
    let s := { ciphering 30 with turns := [.engine] }
    s.inReset = false ∧ s.turns = .engine :: [] ∧ s.job ≠ .none ∧ s.rnd.toNat < 31 ∧ (ciphering 31).rnd = 31 ∧
      keyed.job = .none ∧ ({ ciphering 31 with job := .hblk } : State).job = .hblk ∧ finishing.job = .hfin ∧
      finishing.rnd = 31 := by decide

theorem witness_JobComputesCrypt : (ciphering 0).job ≠ .none ∧ (ciphering 0).rnd = 0 ∧ 31 < 32 := by decide

theorem witness_EncryptEnciphersInputBlock :
    fresh.inReset = false ∧ fresh.job = .none ∧ fresh.kmask ≠ 0xFF ∧ ({ fresh with kmask := 0xFE } : State).kmask ≠ 0xFF ∧
      (absorbing 3).inReset = false ∧ (absorbing 3).job = .none ∧ (absorbing 3).kmask = 0xFF ∧ 31 < 32 := by decide

theorem witness_DecryptDeciphersInputBlock :
    fresh.inReset = false ∧ fresh.job = .none ∧ fresh.kmask ≠ 0xFF ∧
      keyed.inReset = false ∧ keyed.job = .none ∧ keyed.kmask = 0xFF ∧ 31 < 32 := by decide

theorem witness_DigestIsXorOfBlockTerms :
    blockI.toList.length % 8 = 0 ∧ blockI.toList.length = 8 ∧ ([] : List Byte).length % 8 = 0 := by decide

theorem witness_EmptyMessageDigest : keyed.inReset = false ∧ keyed.job = .none ∧ keyed.kmask = 0xFF := by decide

theorem witness_HashInitStartsHash :
    fresh.inReset = false ∧ fresh.job = .none ∧ fresh.kmask ≠ 0xFF ∧
      (absorbing 7).inReset = false ∧ (absorbing 7).job = .none ∧ (absorbing 7).kmask = 0xFF := by decide

theorem witness_HashByteAbsorbsByte :
    keyed.inReset = false ∧ keyed.job = .none ∧ keyed.phase ≠ .absorb ∧
      (absorbing 6).inReset = false ∧ (absorbing 6).job = .none ∧ (absorbing 6).phase = .absorb ∧
      (absorbing 6).bufcnt.toNat < 7 ∧ (absorbing 7).bufcnt = 7 ∧ 31 < 32 := by decide

theorem witness_HashFinalPadsAndFinishes :
    keyed.phase ≠ .absorb ∧ (absorbing 0).inReset = false ∧ (absorbing 0).job = .none ∧ (absorbing 0).phase = .absorb ∧
      (repBlock 8).toList = (absorbing 0).buf.toList.take 0 ++ List.replicate 8 (BitVec.ofNat 8 8) ∧
      (#v[0x31, 0x32, 0x33, 0x34, 0x35, 0x36, 0x37, 1] : Block).toList =
        (absorbing 7).buf.toList.take 7 ++ List.replicate (8 - 7) (BitVec.ofNat 8 (8 - 7)) := by decide

/-- The empty message's hash, the shortest run with the hypotheses of the statement: two commands and 32 rounds. -/
theorem witness_AcceptedHashComputesDigest :
    let s := { keyed with hostQueue := [writeCommand .hashInit, writeCommand .hashFinal] }
    (s.inReset = false ∧ s.job = .none ∧ s.keyv = true ∧ NoReset s) ∧
      (∃ t, core.run 34 s = .next t ∧ (t.job == .none) = true) ∧
      (acceptedWords 34 s).map decode = [Instr.hashInit, Instr.hashFinal].map Except.ok ∧
      [Instr.hashInit, Instr.hashFinal].filter (fun i => !isFiller i) =
        .hashInit :: (([] : List Byte).map .hashByte ++ [.hashFinal]) := by
  intro s
  have hw : acceptedWords 34 s = [0x00000020, 0x00000022] := by decide +kernel
  refine ⟨⟨rfl, rfl, rfl, ?_⟩, exists_of_nextAnd (by decide +kernel), ?_, rfl⟩
  · intro t ht; cases ht
  · rw [hw]; rfl

theorem witness_HashProgramTerminatesWithDigest :
    let cmds : List Instr := [.encrypt, .hashInit, .nop, .hashByte 0x61, .decrypt, .hashFinal, .clrStatus]
    let s := { keyed with hostQueue := cmds.flatMap issue, turns := [.engine, .host, .host] }
    cmds.filter (fun i => !isFiller i) = .hashInit :: (([0x61] : List Byte).map .hashByte ++ [.hashFinal]) ∧
      s.hostQueue = cmds.flatMap issue ∧ s.inReset = false ∧ s.job = .none ∧ s.keyv = true ∧ NoReset s ∧
      s.ovr = false := by
  refine ⟨rfl, rfl, rfl, rfl, rfl, ?_, rfl⟩
  intro t ht
  revert t
  decide

theorem witness_HexvalDecodesDigits :
    (9 < 10 ∧ 5 < 6) ∧
      ∀ c ∈ ([0x2F, 0x3A, 0x40, 0x47, 0x60, 0x67, 0x80] : List Byte),
        ¬ (0x30 ≤ c.toNat ∧ c.toNat ≤ 0x39) ∧ ¬ (0x41 ≤ c.toNat ∧ c.toNat ≤ 0x46) ∧
          ¬ (0x61 ≤ c.toNat ∧ c.toNat ≤ 0x66) := by decide

theorem witness_KeyLoaderComputesParseKey :
    fresh.inReset = false ∧ fresh.job = .none ∧ fresh.phase ≠ .absorb ∧ parseKey charsKC = .ok keyKC ∧
      parseKey (List.replicate 65 0x30) = .error .invalidKeyLength ∧ parseKey charsBad = .error .invalidKeyEncoding :=
  ⟨rfl, rfl, by decide, rfl, rfl, rfl⟩

theorem witness_ParseKeyReadsGroups : parseKey charsKC = .ok keyKC := by rfl

theorem witness_KeyClearDiscardsKey :
    (absorbing 3).inReset = false ∧ (absorbing 3).job = .none ∧ (absorbing 3).phase = .absorb ∧
      keyed.inReset = false ∧ keyed.job = .none ∧ keyed.phase ≠ .absorb := by decide

theorem witness_KeyCharStagesDigit :
    (absorbing 3).phase = .absorb ∧ fresh.inReset = false ∧ fresh.job = .none ∧ fresh.phase ≠ .absorb ∧
      hexval 0x66 = some 15 ∧ hexval 0x67 = none ∧ ({ fresh with kcnt := 63 } : State).kcnt.toNat < 64 ∧
      64 ≤ ({ fresh with kcnt := 64 } : State).kcnt.toNat := by decide

theorem witness_KeyCommitValidatesAndLoads :
    (absorbing 3).phase = .absorb ∧ fresh.inReset = false ∧ fresh.job = .none ∧ fresh.phase ≠ .absorb ∧
      ({ fresh with kcnt := 63 } : State).kcnt ≠ 64 ∧ ({ fresh with kcnt := 65 } : State).kcnt ≠ 64 ∧
      ({ fresh with kcnt := 64 } : State).kbad = false ∧ ({ fresh with kcnt := 64, kbad := true } : State).kbad = true := by
  decide

theorem witness_KeyWordLoadsData :
    fresh.inReset = false ∧ fresh.job = .none ∧ fresh.phase ≠ .absorb ∧ (absorbing 3).phase = .absorb ∧
      (7 : Byte).toNat < 8 ∧ 8 ≤ (8 : Byte).toNat ∧ 8 ≤ (255 : Byte).toNat := by decide

theorem witness_BusyCommandIsDropped :
    let s := { ciphering 30 with turns := [.host], hostQueue := [.write 0x00 4 0xFFFFFFFF] }
    (s.inReset = false ∧ s.job ≠ .none ∧ s.ovr = false ∧ ∃ t, step s = .next t ∧ t.ovr = true) ∧
      ∃ t, step { keyed with ovr := true, hostQueue := [writeCommand .clrStatus] } = .next t ∧ (!t.ovr) = true :=
  ⟨⟨rfl, by decide, rfl, exists_of_nextAnd (by decide)⟩, exists_of_nextAnd (by decide)⟩

theorem witness_NopReportsOk :
    keyed.inReset = false ∧ keyed.job = .none ∧ (ciphering 0).inReset = false ∧ (ciphering 0).job ≠ .none ∧
      opcField 0x00000100 = 0x00 ∧ (0x00000100 : Word) ≠ 0 ∧ opcField 0x80000000 = 0x00 := by decide

theorem witness_ClrStatusClearsOvrAndErr :
    keyed.inReset = false ∧ keyed.job = .none ∧ (ciphering 0).inReset = false ∧ (ciphering 0).job ≠ .none := by decide

theorem witness_AcceptedCommandStartsJobOrCompletes :
    (absorbing 7).inReset = false ∧ (absorbing 7).job = .none ∧ startsJob (.hashByte 0) (absorbing 7) ∧
      ¬ startsJob (.hashByte 0) (absorbing 6) := ⟨rfl, rfl, ⟨rfl, rfl⟩, by intro h; exact absurd h.2 (by decide)⟩

theorem witness_CommandsFollowCheckTable :
    (absorbing 7).inReset = false ∧ (absorbing 7).job = .none ∧ (Instr.keyWord 7).wellFormed = true ∧
      decode 0x00000833 = .error .indexTooLarge := ⟨rfl, rfl, rfl, rfl⟩

theorem witness_ErrorsArePrecise :
    keyed.inReset = false ∧ keyed.job = .none ∧ 8 ≤ (8 : Byte).toNat ∧
      (∃ t, exec .hashFinal keyed = .next t ∧ (t.err != .ok) = true) ∧
      ∃ t, exec .keyCommit { keyed with kcnt := 65 } = .next t ∧ (t.err == .invalidKeyLength && t.kmask == 0) = true :=
  ⟨rfl, rfl, by decide, exists_of_nextAnd (by decide), exists_of_nextAnd (by decide)⟩

theorem witness_KeyNotLoadedReported :
    fresh.inReset = false ∧ fresh.job = .none ∧
      ∃ t, exec .decrypt fresh = .next t ∧ (t.err == .keyNotLoaded) = true := ⟨rfl, rfl, exists_of_nextAnd (by decide)⟩

theorem witness_HashNotActiveReported :
    keyed.inReset = false ∧ keyed.job = .none ∧
      ∃ t, exec (.hashByte 0) { keyed with phase := .done } = .next t ∧ (t.err == .hashNotActive) = true :=
  ⟨rfl, rfl, exists_of_nextAnd (by decide)⟩

theorem witness_KeyLockedReported :
    (absorbing 0).inReset = false ∧ (absorbing 0).job = .none ∧ (Instr.keyWord 7).wellFormed = true ∧
      ∃ t, exec (.keyWord 7) (absorbing 0) = .next t ∧ (t.err == .keyLocked) = true :=
  ⟨rfl, rfl, rfl, exists_of_nextAnd (by decide)⟩

theorem witness_EveryJobCompletes :
    (ciphering 31).job ≠ .none ∧ (ciphering 0).inReset = false ∧ (ciphering 0).turns = [] ∧ keyed.job = .none := by decide

theorem witness_WaitEndsWhenIdle :
    let s := { keyed with hostQueue := [.wait] }
    let b := { ciphering 3 with hostQueue := [.wait], turns := [.host] }
    (s.inReset = false ∧ s.nextTurn = .host ∧ s.hostQueue = .wait :: []) ∧
      b.inReset = false ∧ b.nextTurn = .host ∧ b.hostQueue = .wait :: [] := by decide

end Sys2Proof.Tests
end

/-! PROOFS of the family 10_state.md, first the layer they share: what a step can do to the state elements that only
commands, the engine and reset write, and what each command's effect and each engine step does to those elements. -/

namespace Sys2Proof.Machine

/-! ### What a step can do to the state elements that only commands, the engine and reset write -/

/-- `t` differs from `s` at most in what host accesses write by themselves (DATA, BLK_IN0, BLK_IN1, OVR), in the
level of the reset input, and in what is not the CORE's. -/
def SameInternals (s t : State) : Prop :=
  t = { s with
    data := t.data, blkIn0 := t.blkIn0, blkIn1 := t.blkIn1, ovr := t.ovr, inReset := t.inReset,
    hostQueue := t.hostQueue, turns := t.turns, reply := t.reply, freeIdx := t.freeIdx }

theorem SameCore.sameInternals {s t : State} (h : SameCore s t) : SameInternals s t := by
  unfold SameInternals
  rw [h]

theorem AcceptsWord.idle {s : State} {w : Word} (h : AcceptsWord s w) : s.inReset = false ∧ s.job = .none := by
  obtain ⟨-, hr, hj, -⟩ := (acceptsWord_iff s w).mp h
  exact ⟨hr, hj⟩

theorem Accepts.idle {s : State} {i : Instr} (h : Accepts s i) : s.inReset = false ∧ s.job = .none := by
  obtain ⟨w, -, hw⟩ := h
  exact hw.idle

/-- A step leaves the internals alone, and all of the CORE where reset is held after it; or it accepts a command, or an
illegal word; or the engine moves; or a reset happens. -/
theorem step_internals_cases {s t : State} (h : step s = .next t) :
    (SameInternals s t ∧ (t.inReset = true → SameCore s t)) ∨
    (∃ i u, Accepts s i ∧ SameCore s u ∧ t = effectOf i u) ∨
    (∃ w u, AcceptsWord s w ∧ SameCore s u ∧ t = u.report .illegalCommand) ∨
    (s.nextTurn = .engine ∧ s.inReset = false ∧ s.job ≠ .none ∧ t = engineStep s.popTurn) ∨
    (ResetStep s ∧ ∃ held, t = platformReset held s.popTurn) := by
  rcases step_core_cases h with hs | ⟨v, hr, ht⟩ | ⟨w, rest, -, hr, -, -, rfl⟩ | ⟨w, rest, hn, hr, hj, hq, ht⟩ |
    hengine | hreset | ⟨-, rfl⟩
  · exact .inl ⟨hs.sameInternals, fun _ => hs⟩
  · refine .inl ⟨?_, fun h' => ?_⟩
    · rcases ht with ht | ht | ht <;> (unfold SameInternals; rw [ht])
    · rcases ht with ht | ht | ht <;> (rw [ht] at h'; exact absurd hr (by simpa using h'))
  · exact .inl ⟨rfl, fun h' => absurd hr (by simpa using h')⟩
  · have hw : AcceptsWord s w := (acceptsWord_iff s w).mpr ⟨hn, hr, hj, rest, hq⟩
    cases hd : decode w with
    | ok i =>
      exact .inr (.inl ⟨i, { s with turns := s.turns.tail, hostQueue := rest, reply := .written }, ⟨w, hd, hw⟩, rfl,
        by rw [ht, hd]⟩)
    | error e =>
      exact .inr (.inr (.inl ⟨w, { s with turns := s.turns.tail, hostQueue := rest, reply := .written }, hw, rfl,
        by rw [ht, hd]; rfl⟩))
  · exact .inr (.inr (.inr (.inl hengine)))
  · exact .inr (.inr (.inr (.inr hreset)))
  · exact .inl ⟨rfl, fun h' => absurd h' Bool.false_ne_true⟩

/-! ### What the engine writes -/

/-- RND has 5 bits, so that the round after round 30 is round 31. -/
theorem not_lt_last_iff (r : BitVec 5) : ¬ r.toNat < 31 ↔ r = 31 := by
  rw [BitVec.toNat_eq]
  simp
  omega

/-- A round before the last writes L, R and RND only; the last completes the job. -/
theorem engineStep_cases {s : State} (hj : s.job ≠ .none) :
    (s.rnd ≠ 31 ∧ engineStep s = { s with left := s.roundTemp, right := s.left, rnd := s.rnd + 1 }) ∨
    (s.rnd = 31 ∧ engineStep s = completeJob s.roundTemp s) := by
  by_cases hr : s.rnd.toNat < 31
  · exact .inl ⟨fun h => (not_lt_last_iff _).mpr h hr, engineStep_round hj hr⟩
  · exact .inr ⟨(not_lt_last_iff _).mp hr, engineStep_last hj hr⟩

@[simp] theorem engineStep_sbox (s : State) : (engineStep s).sbox = s.sbox := by
  rw [engineStep_frame]

@[simp] theorem engineStep_key (s : State) : (engineStep s).key = s.key := by
  rw [engineStep_frame]

@[simp] theorem engineStep_kmask (s : State) : (engineStep s).kmask = s.kmask := by
  rw [engineStep_frame]

@[simp] theorem engineStep_err (s : State) : (engineStep s).err = s.err := by
  rw [engineStep_frame]

@[simp] theorem engineStep_inReset (s : State) : (engineStep s).inReset = s.inReset := by
  rw [engineStep_frame]

@[simp] theorem engineStep_respond (s : State) (a : BusReply) :
    engineStep (s.respond a) = (engineStep s).respond a :=
  (engineStep_environment s s.kmask s.data s.blkIn0 s.blkIn1 s.ovr s.err s.hostQueue s.turns a s.freeIdx).trans
    (by rw [engineStep_frame]; rfl)

@[simp] theorem engineStep_drop (s : State) : engineStep s.drop = (engineStep s).drop :=
  (engineStep_environment s s.kmask s.data s.blkIn0 s.blkIn1 true s.err s.hostQueue s.turns s.reply s.freeIdx).trans
    (by rw [engineStep_frame]; rfl)

theorem engineStep_setData (s : State) (v : Word) :
    engineStep { s with data := v } = { engineStep s with data := v } :=
  (engineStep_environment s s.kmask v s.blkIn0 s.blkIn1 s.ovr s.err s.hostQueue s.turns s.reply s.freeIdx).trans
    (by rw [engineStep_frame])

theorem engineStep_setBlkIn0 (s : State) (v : Word) :
    engineStep { s with blkIn0 := v } = { engineStep s with blkIn0 := v } :=
  (engineStep_environment s s.kmask s.data v s.blkIn1 s.ovr s.err s.hostQueue s.turns s.reply s.freeIdx).trans
    (by rw [engineStep_frame])

theorem engineStep_setBlkIn1 (s : State) (v : Word) :
    engineStep { s with blkIn1 := v } = { engineStep s with blkIn1 := v } :=
  (engineStep_environment s s.kmask s.data s.blkIn0 v s.ovr s.err s.hostQueue s.turns s.reply s.freeIdx).trans
    (by rw [engineStep_frame])

theorem completeJob_acc {s : State} {temp : Word} (h : (completeJob temp s).acc ≠ s.acc) :
    s.job = .hblk ∨ s.job = .hfin := by
  cases hj : s.job <;> simp [completeJob, hj] at h ⊢

theorem completeJob_blkOut {s : State} {temp : Word}
    (h : (completeJob temp s).blkOut0 ≠ s.blkOut0 ∨ (completeJob temp s).blkOut1 ≠ s.blkOut1) :
    s.job = .enc ∨ s.job = .dec := by
  cases hj : s.job <;> simp [completeJob, hj] at h ⊢

/-! ### What a command's effect writes -/

/-- In ABSORB the lock keeps every key command from the key (R109). -/
theorem unlessLocked_key_cases (effect : State → State) (s : State) :
    ((unlessLocked effect s).key = s.key ∧ (unlessLocked effect s).kmask = s.kmask) ∨ s.phase ≠ .absorb := by
  unfold unlessLocked
  split
  · exact .inl ⟨rfl, rfl⟩
  · exact .inr ‹_›

/-- KEY and KMASK are written by three commands only, and by these only outside ABSORB (R20, R21, R109). -/
theorem effectOf_key_cases (i : Instr) (s : State) :
    ((effectOf i s).key = s.key ∧ (effectOf i s).kmask = s.kmask) ∨
    (s.phase ≠ .absorb ∧ (i = .keyCommit ∨ i = .keyClear ∨ ∃ idx, i = .keyWord idx)) := by
  cases i with
  | keyCommit => exact (unlessLocked_key_cases ..).imp_right fun hp => ⟨hp, .inl rfl⟩
  | keyClear => exact (unlessLocked_key_cases ..).imp_right fun hp => ⟨hp, .inr (.inl rfl)⟩
  | keyWord idx =>
    simp only [effectOf]
    split
    · exact (unlessLocked_key_cases ..).imp_right fun hp => ⟨hp, .inr (.inr ⟨idx, rfl⟩)⟩
    · exact .inl ⟨rfl, rfl⟩
  | _ =>
    left
    simp only [effectOf, startCipher, startHash, absorbByte, finishHash, unlessLocked, receiveChar]
    (repeat' split) <;> exact ⟨rfl, rfl⟩

/-- ACC is written by HASH_INIT only: the hash jobs write it when they complete (R28). -/
theorem effectOf_acc {i : Instr} (h : i ≠ .hashInit) (s : State) : (effectOf i s).acc = s.acc := by
  cases i with
  | hashInit => exact absurd rfl h
  | _ =>
    simp only [effectOf, startCipher, absorbByte, finishHash, unlessLocked, clearKey, receiveChar, commitKey, loadWord]
    (repeat' split) <;> rfl

/-- Every command writes ERR, whatever ERR was (R35, R97). -/
theorem effectOf_overwrites_err (i : Instr) (s : State) (e : ErrCode) :
    effectOf i { s with err := e } = effectOf i s := by
  cases i <;>
    simp only [effectOf, startCipher, startHash, absorbByte, finishHash, unlessLocked, clearKey, receiveChar,
      commitKey, loadWord, State.keyv] <;>
    (repeat' split) <;> rfl

/-! ### The ROM, the key, the results and ERR -/

/-- Settles O11. -/
theorem romNeverChanges : Obligations.RomNeverChanges := by
  intro s t h
  rcases step_internals_cases h with ⟨hs, -⟩ | ⟨i, u, -, hu, rfl⟩ | ⟨w, u, -, hu, rfl⟩ | ⟨-, -, -, rfl⟩ | ⟨-, held, rfl⟩
  · rw [hs]
  · rw [(effectOf_environment i u).1, hu]
  · rw [State.report_sbox, hu]
  · simp
  · rfl

/-- Settles O12. -/
theorem keyWrittenOnlyByKeyCommands : Obligations.KeyWrittenOnlyByKeyCommands := by
  intro s t h hne
  have hchanged : ¬ (t.key = s.key ∧ t.kmask = s.kmask) := by tauto
  rcases step_internals_cases h with ⟨hs, -⟩ | ⟨i, u, hi, hu, rfl⟩ | ⟨w, u, -, hu, rfl⟩ | ⟨-, -, -, rfl⟩ | ⟨hr, -⟩
  · exact absurd (by rw [hs]; exact ⟨rfl, rfl⟩) hchanged
  · rcases effectOf_key_cases i u with hsame | ⟨hp, hcmd⟩
    · have hkey : u.key = s.key := by rw [hu]
      have hkmask : u.kmask = s.kmask := by rw [hu]
      rw [hkey, hkmask] at hsame
      exact absurd hsame hchanged
    · rw [hu] at hp
      refine .inr ⟨hp, ?_⟩
      rcases hcmd with rfl | rfl | ⟨idx, rfl⟩
      · exact .inl hi
      · exact .inr (.inl hi)
      · exact .inr (.inr ⟨idx, hi⟩)
  · exact absurd (by rw [hu]; exact ⟨rfl, rfl⟩) hchanged
  · exact absurd (by simp) hchanged
  · exact .inl hr

/-- An engine step that writes ACC completes a hash job (R28, R74). -/
theorem engineStep_acc {s : State} (h : (engineStep s).acc ≠ s.acc) :
    s.rnd = 31 ∧ (s.job = .hblk ∨ s.job = .hfin) := by
  by_cases hj : s.job = .none
  · rw [engineStep_without_job hj] at h
    exact absurd rfl h
  · rcases engineStep_cases hj with ⟨-, he⟩ | ⟨hr, he⟩
    · rw [he] at h
      exact absurd rfl h
    · rw [he] at h
      exact ⟨hr, completeJob_acc h⟩

/-- An engine step that writes BLK_OUT0 or BLK_OUT1 completes an ENC or DEC job (R34, R74). -/
theorem engineStep_blkOut {s : State}
    (h : (engineStep s).blkOut0 ≠ s.blkOut0 ∨ (engineStep s).blkOut1 ≠ s.blkOut1) :
    s.rnd = 31 ∧ (s.job = .enc ∨ s.job = .dec) := by
  by_cases hj : s.job = .none
  · simp [engineStep_without_job hj] at h
  · rcases engineStep_cases hj with ⟨-, he⟩ | ⟨hr, he⟩
    · simp [he] at h
    · rw [he] at h
      exact ⟨hr, completeJob_blkOut h⟩

/-- R28 over every step: the first half of O13. -/
theorem step_acc {s t : State} (h : step s = .next t) (hne : t.acc ≠ s.acc) :
    ResetStep s ∨ Accepts s .hashInit ∨ CompletesJob s .hblk ∨ CompletesJob s .hfin := by
  rcases step_internals_cases h with ⟨hs, -⟩ | ⟨i, u, hi, hu, rfl⟩ | ⟨w, u, -, hu, rfl⟩ | ⟨hn, hr, -, rfl⟩ | ⟨hr, -⟩
  · exact absurd (by rw [hs]) hne
  · by_cases hinit : i = .hashInit
    · exact .inr (.inl (hinit ▸ hi))
    · exact absurd (by rw [effectOf_acc hinit, hu]) hne
  · exact absurd (by rw [hu]; rfl) hne
  · obtain ⟨hrnd, hj | hj⟩ := engineStep_acc hne
    · exact .inr (.inr (.inl ⟨hn, hr, hj, hrnd⟩))
    · exact .inr (.inr (.inr ⟨hn, hr, hj, hrnd⟩))
  · exact .inl hr

/-- R34 over every step: the second half of O13. -/
theorem step_blkOut {s t : State} (h : step s = .next t) (hne : t.blkOut0 ≠ s.blkOut0 ∨ t.blkOut1 ≠ s.blkOut1) :
    ResetStep s ∨ CompletesJob s .enc ∨ CompletesJob s .dec := by
  have hchanged : ¬ (t.blkOut0 = s.blkOut0 ∧ t.blkOut1 = s.blkOut1) := by tauto
  rcases step_internals_cases h with ⟨hs, -⟩ | ⟨i, u, -, hu, rfl⟩ | ⟨w, u, -, hu, rfl⟩ | ⟨hn, hr, -, rfl⟩ | ⟨hr, -⟩
  · exact absurd (by rw [hs]; exact ⟨rfl, rfl⟩) hchanged
  · obtain ⟨h0, h1, -⟩ := effectOf_results i u
    exact absurd (by rw [h0, h1, hu]; exact ⟨rfl, rfl⟩) hchanged
  · exact absurd (by rw [hu]; exact ⟨rfl, rfl⟩) hchanged
  · obtain ⟨hrnd, hj | hj⟩ := engineStep_blkOut hne
    · exact .inr (.inl ⟨hn, hr, hj, hrnd⟩)
    · exact .inr (.inr ⟨hn, hr, hj, hrnd⟩)
  · exact .inl hr

/-- Settles O13. -/
theorem resultsWrittenOnlyByTheirJobs : Obligations.ResultsWrittenOnlyByTheirJobs :=
  fun _ _ h => ⟨step_acc h, step_blkOut h⟩

/-- R35 over every step: the first half of O14. -/
theorem step_err {s t : State} (h : step s = .next t) (hne : t.err ≠ s.err) :
    ResetStep s ∨ ∃ w, AcceptsWord s w := by
  rcases step_internals_cases h with ⟨hs, -⟩ | ⟨i, u, ⟨w, -, hw⟩, -, -⟩ | ⟨w, u, hw, -, -⟩ | ⟨-, -, -, rfl⟩ | ⟨hr, -⟩
  · exact absurd (by rw [hs]) hne
  · exact .inr ⟨w, hw⟩
  · exact .inr ⟨w, hw⟩
  · exact absurd (by simp) hne
  · exact .inl hr

/-- The step that accepts a word does not read ERR: the second half of O14. -/
theorem step_accepted_ignores_err {s : State} {w : Word} (e : ErrCode) (h : AcceptsWord s w) :
    ∃ t, step s = .next t ∧ step { s with err := e } = .next t := by
  obtain ⟨hn, hr, hj, rest, hq⟩ := (acceptsWord_iff s w).mp h
  refine ⟨_, step_accepted hn hr hj hq, ?_⟩
  rw [step_accepted (s := { s with err := e }) hn hr hj hq]
  cases decode w with
  | ok i => exact congrArg _ (effectOf_overwrites_err i { s with
      turns := s.turns.tail, hostQueue := rest, reply := .written } e)
  | error _ => rfl

/-- Settles O14. -/
theorem errWrittenOnlyByAcceptedWords : Obligations.ErrWrittenOnlyByAcceptedWords :=
  ⟨fun _ _ => step_err, fun _ _ e => step_accepted_ignores_err e⟩

/-! ### The invariant -/

/-- Settles O9: the ROM's rows are permutations by the type of the parameter, and the rest is zero. -/
theorem invHoldsAtReset : Obligations.InvHoldsAtReset where
  roundZeroWhenIdle _ := rfl
  hashJobInAbsorb := by simp [State.reset]
  finalJobEmptiesBuf _ := rfl
  keyCountBound := by simp [State.reset]
  bufEmptyOutsideAbsorb _ := rfl
  keyedInAbsorb := by simp [State.reset]
  romRows := sbox_row_injective
  heldIsReset := by simp [State.reset]

/-- With reset not held the invariant's clause about a held reset says nothing. -/
theorem heldIsReset_of_released {s : State} (hr : s.inReset = false) :
    s.inReset = true → SameCore (platformReset true s) s :=
  fun h => absurd (hr.symm.trans h) Bool.false_ne_true

/-- A reset gives the invariant whatever the other elements were (R122, R123). -/
theorem Inv.platformReset {s : State} (hi : Inv s) (held : Bool) : Inv (platformReset held s) :=
  { invHoldsAtReset with
    romRows := hi.romRows
    heldIsReset := fun h => by
      obtain rfl : held = true := h
      rfl }

/-- With reset not held, what host accesses write by themselves, ERR and the level of the reset input do not
matter to the invariant. -/
theorem Inv.setUnread {s : State} (hi : Inv s) (data b0 b1 : Word) (err : ErrCode) (ovr : Bool) (q : List HostOp)
    (ts : List Turn) (a : BusReply) (f : Nat) :
    Inv { s with
      data := data, blkIn0 := b0, blkIn1 := b1, err := err, ovr := ovr, inReset := false, hostQueue := q, turns := ts,
      reply := a, freeIdx := f } :=
  { hi with heldIsReset := heldIsReset_of_released rfl }

theorem Inv.of_sameCore {s t : State} (hi : Inv s) (h : SameCore s t) : Inv t := by
  rw [h]
  refine { hi with heldIsReset := fun hr => ?_ }
  have hs : s = Machine.platformReset true s := hi.heldIsReset hr
  exact congrArg (fun u : State =>
    { u with hostQueue := t.hostQueue, turns := t.turns, reply := t.reply, freeIdx := t.freeIdx }) hs

theorem Inv.of_sameInternals {s t : State} (hi : Inv s) (h : SameInternals s t)
    (hheld : t.inReset = true → SameCore s t) : Inv t := by
  by_cases hr : t.inReset = true
  · exact hi.of_sameCore (hheld hr)
  · rw [h, Bool.eq_false_iff.mpr hr]
    exact hi.setUnread ..

/-- The engine's step keeps the invariant: a round leaves JOB, and the last round ends the job with RND = 0, an HFIN
job with BUF empty (R74). -/
theorem Inv.engineStep {s : State} (hi : Inv s) (hr : s.inReset = false) (hj : s.job ≠ .none) :
    Inv (engineStep s) := by
  rcases engineStep_cases hj with ⟨-, he⟩ | ⟨-, he⟩
  · rw [he]
    exact { hi with roundZeroWhenIdle := fun h => absurd h hj, heldIsReset := heldIsReset_of_released hr }
  · rw [he]
    cases hc : s.job with
    | none => exact absurd hc hj
    | enc | dec | hblk =>
      simp only [completeJob, hc]
      exact { hi with
        roundZeroWhenIdle := fun _ => rfl, hashJobInAbsorb := by simp, finalJobEmptiesBuf := by simp,
        heldIsReset := heldIsReset_of_released hr }
    | hfin =>
      simp only [completeJob, hc]
      exact { hi with
        roundZeroWhenIdle := fun _ => rfl, hashJobInAbsorb := by simp, finalJobEmptiesBuf := by simp,
        bufEmptyOutsideAbsorb := fun _ => hi.finalJobEmptiesBuf hc, keyedInAbsorb := by simp,
        heldIsReset := heldIsReset_of_released hr }

/-- KCNT saturates at 65 (R23, R94). -/
theorem nextKcnt_toNat (s : State) : s.nextKcnt.toNat = min (s.kcnt.toNat + 1) 65 := by
  rw [State.nextKcnt, BitVec.toNat_ofNat, Nat.mod_eq_of_lt (by omega)]

section Effects

variable {s : State} (hi : Inv s) (hr : s.inReset = false) (hj : s.job = .none)
include hi hr

theorem Inv.report (c : ErrCode) : Inv (s.report c) :=
  { hi with heldIsReset := heldIsReset_of_released hr }

/-- Starting a job: RND = 0 holds at once, and a hash job needs ABSORB, an HFIN job an empty BUF. -/
theorem Inv.startJob {j : Job} (l r : Word) (hp : j = .hblk ∨ j = .hfin → s.phase = .absorb)
    (hb : j = .hfin → s.bufcnt = 0) : Inv (s.startJob j l r) :=
  { hi with
    roundZeroWhenIdle := fun _ => rfl, hashJobInAbsorb := hp, finalJobEmptiesBuf := hb
    heldIsReset := heldIsReset_of_released hr }

theorem Inv.startCipher {j : Job} (hc : j = .enc ∨ j = .dec) : Inv (startCipher j s) := by
  unfold Machine.startCipher
  split
  · refine (hi.startJob hr _ _ ?_ ?_).report hr _ <;> rcases hc with rfl | rfl <;> simp
  · exact hi.report hr _

theorem Inv.startHash : Inv (startHash s) := by
  unfold Machine.startHash
  split
  case isTrue hk =>
    exact { hi with
      hashJobInAbsorb := fun _ => rfl, finalJobEmptiesBuf := fun _ => rfl, bufEmptyOutsideAbsorb := fun _ => rfl
      keyedInAbsorb := fun _ => hk, heldIsReset := heldIsReset_of_released hr }
  case isFalse => exact hi.report hr _

include hj in
theorem Inv.absorbByte (b : Byte) : Inv (absorbByte b s) := by
  unfold Machine.absorbByte
  split
  case isTrue hp =>
    split
    · exact { hi with
        finalJobEmptiesBuf := by simp [hj], bufEmptyOutsideAbsorb := fun h => absurd hp h
        heldIsReset := heldIsReset_of_released hr }
    · exact { hi with
        roundZeroWhenIdle := fun _ => rfl, hashJobInAbsorb := fun _ => hp, finalJobEmptiesBuf := fun _ => rfl
        bufEmptyOutsideAbsorb := fun _ => rfl, heldIsReset := heldIsReset_of_released hr }
  case isFalse => exact hi.report hr _

theorem Inv.finishHash : Inv (finishHash s) := by
  unfold Machine.finishHash
  split
  case isTrue hp =>
    exact { hi with
      roundZeroWhenIdle := fun _ => rfl, hashJobInAbsorb := fun _ => hp, finalJobEmptiesBuf := fun _ => rfl
      bufEmptyOutsideAbsorb := fun _ => rfl, heldIsReset := heldIsReset_of_released hr }
  case isFalse => exact hi.report hr _

/-- Outside ABSORB a key command may write the key, its mask and the loader as it likes, as long as KCNT stays in
its range. -/
theorem Inv.setKey (hp : s.phase ≠ .absorb) (key kstage : KeyWords) (kmask : BitVec 8) (kcnt : BitVec 7) (kbad : Bool)
    (err : ErrCode) (hk : kcnt.toNat ≤ 65) :
    Inv { s with key := key, kstage := kstage, kmask := kmask, kcnt := kcnt, kbad := kbad, err := err } :=
  { hi with
    keyCountBound := hk, keyedInAbsorb := fun h => absurd h hp, heldIsReset := heldIsReset_of_released hr }

theorem Inv.unlessLocked {effect : State → State} (h : s.phase ≠ .absorb → Inv (effect s)) :
    Inv (unlessLocked effect s) := by
  unfold Machine.unlessLocked
  split
  · exact hi.report hr _
  · exact h ‹_›

theorem Inv.receiveChar (hp : s.phase ≠ .absorb) (c : Byte) : Inv (receiveChar c s) := by
  have hk : s.nextKcnt.toNat ≤ 65 := by rw [nextKcnt_toNat]; omega
  unfold Machine.receiveChar
  split
  · exact hi.setKey hr hp _ _ _ _ _ _ hk
  · exact hi.setKey hr hp _ _ _ _ _ _ hk

theorem Inv.commitKey (hp : s.phase ≠ .absorb) : Inv (commitKey s) := by
  unfold Machine.commitKey
  split
  · exact hi.setKey hr hp _ _ _ 0 _ _ (Nat.zero_le _)
  · split
    · exact hi.setKey hr hp _ _ _ 0 _ _ (Nat.zero_le _)
    · exact hi.setKey hr hp _ _ _ 0 _ _ (Nat.zero_le _)

include hj in
/-- An accepted command keeps the invariant. -/
theorem Inv.effectOf (i : Instr) : Inv (effectOf i s) := by
  cases i with
  | nop => exact hi.report hr _
  | clrStatus => exact { hi with heldIsReset := heldIsReset_of_released hr }
  | encrypt => exact hi.startCipher hr (.inl rfl)
  | decrypt => exact hi.startCipher hr (.inr rfl)
  | hashInit => exact hi.startHash hr
  | hashByte b => exact hi.absorbByte hr hj b
  | hashFinal => exact hi.finishHash hr
  | keyClear => exact hi.unlessLocked hr fun hp => hi.setKey hr hp _ _ _ 0 _ _ (Nat.zero_le _)
  | keyChar c => exact hi.unlessLocked hr fun hp => hi.receiveChar hr hp c
  | keyCommit => exact hi.unlessLocked hr fun hp => hi.commitKey hr hp
  | keyWord idx =>
    simp only [Machine.effectOf]
    split
    · exact hi.unlessLocked hr fun hp => hi.setKey hr hp _ _ _ _ _ _ hi.keyCountBound
    · exact hi.report hr _

end Effects

/-- Settles O10: each kind of step keeps the invariant. -/
theorem stepKeepsInv : Obligations.StepKeepsInv := by
  intro s t hi h
  rcases step_internals_cases h with ⟨hs, hheld⟩ | ⟨i, u, ha, hu, rfl⟩ | ⟨w, u, hw, hu, rfl⟩ | ⟨-, hr, hj, rfl⟩ |
    ⟨-, held, rfl⟩
  · exact hi.of_sameInternals hs hheld
  · have hr : u.inReset = false := by rw [hu]; exact ha.idle.1
    have hj : u.job = .none := by rw [hu]; exact ha.idle.2
    exact (hi.of_sameCore hu).effectOf hr hj i
  · have hr : u.inReset = false := by rw [hu]; exact hw.idle.1
    exact (hi.of_sameCore hu).report hr _
  · exact (hi.of_sameCore (t := s.popTurn) rfl).engineStep hr hj
  · exact (hi.of_sameCore (t := s.popTurn) rfl).platformReset held

/-! ### STATUS -/

/-- STATUS with the width of its fields' sum, so that the laws of concatenation apply to it. -/
theorem status_extract (s : State) (start len : Nat) :
    s.status.extractLsb' start len =
      BitVec.extractLsb' start len
        (BitVec.ofBool s.kbad ++ s.kcnt ++ s.kmask ++ 0#1 ++ s.bufcnt ++ s.err.bits ++ 0#3 ++ BitVec.ofBool s.ovr
          ++ s.phase.bits ++ BitVec.ofBool s.keyv ++ BitVec.ofBool s.busy) := rfl

/-- Each field of STATUS, reserved bits included (R37). -/
theorem status_fields (s : State) :
    s.status.extractLsb' 0 1 = BitVec.ofBool s.busy ∧
    s.status.extractLsb' 1 1 = BitVec.ofBool s.keyv ∧
    s.status.extractLsb' 2 2 = s.phase.bits ∧
    s.status.extractLsb' 4 1 = BitVec.ofBool s.ovr ∧
    s.status.extractLsb' 5 3 = 0 ∧
    s.status.extractLsb' 8 4 = s.err.bits ∧
    s.status.extractLsb' 12 3 = s.bufcnt ∧
    s.status.extractLsb' 15 1 = 0 ∧
    s.status.extractLsb' 16 8 = s.kmask ∧
    s.status.extractLsb' 24 7 = s.kcnt ∧
    s.status.extractLsb' 31 1 = BitVec.ofBool s.kbad := by
  simp (disch := decide) only [status_extract, BitVec.extractLsb'_append_eq_of_le,
    BitVec.extractLsb'_append_eq_of_add_le]
  simp

theorem ofBool_eq_ite (b : Bool) : BitVec.ofBool b = if b then 1 else 0 := by cases b <;> rfl

/-- A write to STATUS is answered and ignored (R37, R43). -/
theorem hostWrite_status {s : State} (hr : s.inReset = false) (v : Word) :
    hostWrite 0x04 4 v s = .next { s with reply := .written } :=
  hostAccess_taken (by decide) hr (by decide)

/-- Settles O16. -/
theorem statusShowsItsFields : Obligations.StatusShowsItsFields := by
  refine ⟨by decide, fun s v hr => hostWrite_status hr v, fun s => ?_⟩
  obtain ⟨hbusy, hkeyv, hphase, hovr, h5, herr, hbufcnt, h15, hkmask, hkcnt, hkbad⟩ := status_fields s
  refine ⟨?_, ?_, hphase, ?_, h5, herr, hbufcnt, h15, hkmask, hkcnt, ?_⟩
  · simp [hbusy, ofBool_eq_ite, State.busy]
  · simp [hkeyv, ofBool_eq_ite, State.keyv]
  · rw [hovr, ofBool_eq_ite]
  · rw [hkbad, ofBool_eq_ite]

/-! ### A host write and an engine step -/

/-- A write out of reset: outside the window it stops, refused it raises BusError, else the register takes it. -/
theorem hostWrite_cases {s t : State} {off : Int} {n : Nat} {v : Word} (hr : s.inReset = false)
    (h : hostWrite off n v s = .next t) :
    inWindow off = true ∧
      ((refusedAccess off n = true ∧ t = s.raiseBusError off) ∨
        (refusedAccess off n = false ∧ writeReg (regAt off.toNat) v (s.respond .written) = .next t)) := by
  unfold hostWrite at h
  cases hw : inWindow off with
  | false => rw [hostAccess_outside hw] at h; cases h
  | true =>
    refine ⟨rfl, ?_⟩
    cases hf : refusedAccess off n with
    | true =>
      rw [hostAccess_refused hw hr hf] at h
      cases h
      exact .inl ⟨rfl, rfl⟩
    | false =>
      rw [hostAccess_taken hw hr hf] at h
      exact .inr ⟨rfl, h⟩

/-- A round before the last does not end the job (R74). -/
theorem engineStep_job {s : State} (hj : s.job ≠ .none) (hr : s.rnd ≠ 31) : (engineStep s).job = s.job := by
  rcases engineStep_cases hj with ⟨-, he⟩ | ⟨h31, -⟩
  · rw [he]
  · exact absurd h31 hr

/-- A write to a register commutes with an engine step, when both find a job running where the register is CMD. -/
theorem writeReg_engineStep {s t : State} {r : WindowReg} {v : Word}
    (hcmd : r = .cmd → s.job ≠ .none ∧ (engineStep s).job ≠ .none) (h : writeReg r v s = .next t) :
    writeReg r v (engineStep s) = .next (engineStep t) := by
  cases r with
  | cmd =>
    obtain ⟨hj, hj'⟩ := hcmd rfl
    obtain rfl : s.drop = t := by simpa [writeReg, writeCmd_busy hj] using h
    rw [writeReg, writeCmd_busy hj', engineStep_drop]
  | data => cases h; exact congrArg _ (engineStep_setData s v).symm
  | blkIn0 => cases h; exact congrArg _ (engineStep_setBlkIn0 s v).symm
  | blkIn1 => cases h; exact congrArg _ (engineStep_setBlkIn1 s v).symm
  | _ => cases h; rfl

/-- Settles O24. -/
theorem hostWriteCommutesWithEngineStep : Obligations.HostWriteCommutesWithEngineStep := by
  intro s t off n v hr hj hlast h
  have hr' : (engineStep s).inReset = false := by simpa using hr
  obtain ⟨hw, ⟨hf, rfl⟩ | ⟨hf, ht⟩⟩ := hostWrite_cases hr h
  · rw [hostWrite, hostAccess_refused hw hr' hf]
    exact congrArg _ (engineStep_respond ..).symm
  · rw [hostWrite, hostAccess_taken hw hr' hf, ← engineStep_respond]
    refine writeReg_engineStep (fun hreg => ?_) ht
    have hoff : off = 0 := by
      have := (regAt_eq_cmd_iff _).mp hreg
      simp [inWindow] at hw
      omega
    have hn : n = 4 := by
      simp [refusedAccess] at hf
      exact hf.1
    refine ⟨hj, ?_⟩
    rw [engineStep_job (s := s.respond .written) hj (hlast hoff hn)]
    exact hj

end Sys2Proof.Machine

/-! PROOFS of the family 20_memory.md, first the layer they share: which register an admitted access reaches, and when
a host access, a host's turn and a step go on. -/

namespace Sys2Proof.Machine

/-! ### The register an admitted access reaches -/

/-- The key words lie at 0x40 to 0x5C, in order (R41). -/
theorem regAt_key (i : Fin 8) : regAt (0x40 + 4 * i.val) = .key i := by
  revert i
  decide

/-- The offsets between the registers and those after the key words are reserved (R41). -/
theorem regAt_reserved {off : Nat} (h : off = 0x0C ∨ (0x28 ≤ off ∧ off < 0x40) ∨ 0x60 ≤ off) :
    regAt off = .reserved := by
  simp (disch := omega) only [regAt, if_neg, dif_neg]

/-- A write at any offset but those of CMD, DATA, BLK_IN0 and BLK_IN1 is ignored (R43). -/
theorem writeReg_regAt_ignored {off : Nat} (hcmd : off ≠ 0x00) (hdata : off ≠ 0x08) (h0 : off ≠ 0x10)
    (h1 : off ≠ 0x14) (v : Word) (s : State) : writeReg (regAt off) v s = .next s := by
  simp only [regAt, hcmd, hdata, h0, h1, if_false]
  (repeat' split) <;> rfl

section Admitted

variable {off : Int} {s : State} (hr : s.inReset = false) (h0 : 0 ≤ off) (hlast : off ≤ 0xFC) (h4 : off % 4 = 0)
include hr h0 hlast h4

/-- An aligned access of four bytes inside the window is neither foreign nor refused (R44, R45). -/
theorem hostAccess_admitted (taken : State → Host.Outcome State Fault Refusal) :
    hostAccess off 4 taken s = taken s :=
  hostAccess_taken (decide_eq_true ⟨h0, by omega⟩) hr (decide_eq_false (by omega))

/-- An admitted read is answered with the register's content (R42). -/
theorem hostRead_admitted : hostRead off 4 s = .next (s.respond (.data (readReg (regAt off.toNat) s))) :=
  hostAccess_admitted hr h0 hlast h4 _

/-- An admitted write reaches the register (R43). -/
theorem hostWrite_admitted (v : Word) :
    hostWrite off 4 v s = writeReg (regAt off.toNat) v (s.respond .written) :=
  hostAccess_admitted hr h0 hlast h4 _

end Admitted

/-- A read of a key word (R41, R42). -/
theorem hostRead_key {s : State} (hr : s.inReset = false) (i : Fin 8) :
    hostRead (0x40 + 4 * (i.val : Int)) 4 s = .next { s with reply := .data s.key[i] } := by
  have hoff : (0x40 + 4 * (i.val : Int)).toNat = 0x40 + 4 * i.val := by omega
  rw [hostRead_admitted hr (by omega) (by omega) (by omega), hoff, regAt_key]
  rfl

/-- A read of a reserved offset (R41, R42). -/
theorem hostRead_reserved {s : State} (hr : s.inReset = false) {off : Int} (h4 : off % 4 = 0)
    (h : off = 0x0C ∨ (0x28 ≤ off ∧ off ≤ 0x3C) ∨ (0x60 ≤ off ∧ off ≤ 0xFC)) :
    hostRead off 4 s = .next { s with reply := .data 0 } := by
  rw [hostRead_admitted hr (by omega) (by omega) h4, regAt_reserved (by omega)]
  rfl

/-- Settles O17: a read at a fixed offset is an admitted read, and `regAt` and `readReg` evaluate at it. -/
theorem readReturnsRegisterContent : Obligations.ReadReturnsRegisterContent := by
  intro s hr
  refine ⟨?_, ?_, ?_, ?_, ?_, ?_, ?_, ?_, ?_, hostRead_key hr, fun _ => hostRead_reserved hr⟩ <;>
    exact hostRead_admitted hr (by decide) (by decide) (by decide)

/-! ### Admitted writes, and a running job -/

/-- A legal word written to CMD while the CORE is idle runs its command (R43, R97). -/
theorem hostWrite_cmd_legal {s : State} {v : Word} {i : Instr} (hr : s.inReset = false) (hj : s.job = .none)
    (hd : decode v = .ok i) : hostWrite 0x00 4 v s = exec i { s with reply := .written } := by
  rw [hostWrite_cmd_idle hr hj, hd]
  exact (exec_idle (s := s.respond .written) hr hj).symm

/-- An illegal word written to CMD while the CORE is idle reports ILLEGAL_COMMAND (R43, R62). -/
theorem hostWrite_cmd_illegal {s : State} {v : Word} {e : DecodeError} (hr : s.inReset = false)
    (hj : s.job = .none) (hd : decode v = .error e) :
    hostWrite 0x00 4 v s = .next { s with reply := .written, err := .illegalCommand } := by
  rw [hostWrite_cmd_idle hr hj, hd]
  rfl

/-- What commutes with one engine step commutes with any number of them. -/
theorem engineStep_iterate_commute {write : State → State} (h : ∀ s, engineStep (write s) = write (engineStep s))
    (n : Nat) (s : State) : engineStep^[n] (write s) = write (engineStep^[n] s) :=
  (show Function.Commute engineStep write from h).iterate_left n s

/-- Settles O18. That data writes leave a running job alone is `engineStep_setData` and its like at each step. -/
theorem writeFollowsRegisterMap : Obligations.WriteFollowsRegisterMap := by
  intro s v hr
  refine ⟨?data, ?blkIn0, ?blkIn1, ?ignored, hostWrite_cmd_busy hr, fun _ => hostWrite_cmd_legal hr,
    fun _ => hostWrite_cmd_illegal hr, fun n => ⟨?jobData, ?jobBlkIn0, ?jobBlkIn1⟩⟩
  case data => exact hostWrite_admitted (off := 0x08) hr (by decide) (by decide) (by decide) v
  case blkIn0 => exact hostWrite_admitted (off := 0x10) hr (by decide) (by decide) (by decide) v
  case blkIn1 => exact hostWrite_admitted (off := 0x14) hr (by decide) (by decide) (by decide) v
  case ignored =>
    intro off h0 hlast h4 hcmd hdata hin0 hin1
    rw [hostWrite_admitted hr h0 hlast h4]
    exact writeReg_regAt_ignored (by omega) (by omega) (by omega) (by omega) v _
  case jobData => exact engineStep_iterate_commute (fun t => engineStep_setData t v) n s
  case jobBlkIn0 => exact engineStep_iterate_commute (fun t => engineStep_setBlkIn0 t v) n s
  case jobBlkIn1 => exact engineStep_iterate_commute (fun t => engineStep_setBlkIn1 t v) n s

/-! ### When a step goes on -/

/-- A write to CMD goes on and leaves the host's queue as it is. -/
theorem writeCmd_goes_on {s : State} (hr : s.inReset = false) (v : Word) :
    ∃ t, writeCmd v s = .next t ∧ t.hostQueue = s.hostQueue := by
  by_cases hj : s.job = .none
  · refine ⟨_, writeCmd_idle hr hj, ?_⟩
    cases decode v with
    | ok i =>
      obtain ⟨-, -, hq, -⟩ := effectOf_environment i s
      exact hq
    | error _ => rfl
  · exact ⟨_, writeCmd_busy hj, rfl⟩

/-- A write to any register goes on and leaves the host's queue as it is. -/
theorem writeReg_goes_on {s : State} (hr : s.inReset = false) (r : WindowReg) (v : Word) :
    ∃ t, writeReg r v s = .next t ∧ t.hostQueue = s.hostQueue := by
  cases r with
  | cmd => exact writeCmd_goes_on hr v
  | _ => exact ⟨_, rfl, rfl⟩

/-- An access inside the window goes on, if what it does when it is taken does. -/
theorem hostAccess_goes_on {off : Int} {taken : State → Host.Outcome State Fault Refusal} {s : State}
    (hw : inWindow off = true) (n : Nat)
    (h : s.inReset = false → ∃ t, taken s = .next t ∧ t.hostQueue = s.hostQueue) :
    ∃ t, hostAccess off n taken s = .next t ∧ t.hostQueue = s.hostQueue := by
  cases hr : s.inReset with
  | true => exact ⟨_, hostAccess_held hw hr, rfl⟩
  | false =>
    cases hf : refusedAccess off n with
    | true => exact ⟨_, hostAccess_refused hw hr hf, rfl⟩
    | false =>
      rw [hostAccess_taken hw hr hf]
      exact h hr

theorem hostRead_goes_on {off : Int} (hw : inWindow off = true) (n : Nat) (s : State) :
    ∃ t, hostRead off n s = .next t ∧ t.hostQueue = s.hostQueue :=
  hostAccess_goes_on hw n fun _ => ⟨_, rfl, rfl⟩

theorem hostWrite_goes_on {off : Int} (hw : inWindow off = true) (n : Nat) (v : Word) (s : State) :
    ∃ t, hostWrite off n v s = .next t ∧ t.hostQueue = s.hostQueue :=
  hostAccess_goes_on hw n fun hr => writeReg_goes_on (s := s.respond .written) hr _ v

/-- A WAIT's read goes on, and at most the WAIT leaves the queue (R64). -/
theorem hostWait_goes_on {s : State} {rest : List HostOp} (hq : s.hostQueue = .wait :: rest) :
    ∃ t, hostWait rest s = .next t ∧ t.hostQueue <:+ s.hostQueue := by
  obtain ⟨u, hu, huq⟩ := hostRead_goes_on (off := 0x04) rfl 4 s
  simp only [hostWait, hu]
  refine ⟨_, rfl, ?_⟩
  split
  · exact hq ▸ List.suffix_cons .wait rest
  · exact huq ▸ List.suffix_rfl

/-- A host's turn goes on when its next access lies in the window, and takes nothing but that access from the queue. -/
theorem hostTurn_goes_on {s : State} (h : ∀ op rest, s.hostQueue = op :: rest → op.inWindow = true) :
    ∃ t, hostTurn s = .next t ∧ t.hostQueue <:+ s.hostQueue := by
  cases hq : s.hostQueue with
  | nil => exact ⟨s, by simp only [hostTurn, hq], by rw [hq]⟩
  | cons op rest =>
    have hw : op.inWindow = true := h op rest hq
    cases op with
    | read off n =>
      obtain ⟨t, ht, htq⟩ := hostRead_goes_on hw n { s with hostQueue := rest }
      exact ⟨t, by simpa only [hostTurn, hq] using ht, htq ▸ List.suffix_cons ..⟩
    | write off n v =>
      obtain ⟨t, ht, htq⟩ := hostWrite_goes_on hw n v { s with hostQueue := rest }
      exact ⟨t, by simpa only [hostTurn, hq] using ht, htq ▸ List.suffix_cons ..⟩
    | wait =>
      obtain ⟨t, ht, htq⟩ := hostWait_goes_on hq
      exact ⟨t, by simpa only [hostTurn, hq] using ht, hq ▸ htq⟩

@[simp] theorem engineTurn_hostQueue (s : State) : (engineTurn s).hostQueue = s.hostQueue := by
  unfold engineTurn
  split
  · rfl
  · rw [engineStep_frame]

/-- A step goes on unless the host is to make an access outside the window; the host's queue only gets shorter. -/
theorem step_goes_on {s : State}
    (h : s.nextTurn = .host → ∀ op rest, s.hostQueue = op :: rest → op.inWindow = true) :
    ∃ t, step s = .next t ∧ t.hostQueue <:+ s.hostQueue := by
  unfold step
  cases hn : s.nextTurn with
  | host => exact hostTurn_goes_on (s := s.popTurn) (h hn)
  | engine => exact ⟨_, rfl, by simp⟩
  | reset | holdReset | releaseReset => exact ⟨_, rfl, List.suffix_rfl⟩

/-! ### When a step stops -/

/-- The host's operation is an access at `BASE + off`, outside the window (R45). -/
def HostOp.ForeignAt (op : HostOp) (off : Int) : Prop :=
  (off < 0 ∨ 0xFF < off) ∧ ((∃ n, op = .read off n) ∨ ∃ n v, op = .write off n v)

theorem inWindow_eq_false_iff (off : Int) : inWindow off = false ↔ off < 0 ∨ 0xFF < off := by
  rw [inWindow, decide_eq_false_iff_not]
  omega

/-- An operation is either the CORE's or foreign at some offset. -/
theorem HostOp.exists_foreignAt {op : HostOp} (h : op.inWindow ≠ true) : ∃ off, op.ForeignAt off := by
  have hw : op.inWindow = false := by simpa using h
  cases op with
  | read off n => exact ⟨off, (inWindow_eq_false_iff off).mp hw, .inl ⟨n, rfl⟩⟩
  | write off n v => exact ⟨off, (inWindow_eq_false_iff off).mp hw, .inr ⟨n, v, rfl⟩⟩
  | wait => cases hw

/-- A foreign access stops the machine with the fault that carries its offset (R45, log entry 6). -/
theorem step_foreign {s : State} {op : HostOp} {rest : List HostOp} {off : Int} (hn : s.nextTurn = .host)
    (hq : s.hostQueue = op :: rest) (hf : op.ForeignAt off) : step s = .fault (.outsideWindow off) := by
  obtain ⟨hout, hop⟩ := hf
  have hw : inWindow off = false := (inWindow_eq_false_iff off).mpr hout
  have hturn : step s = hostTurn s.popTurn := by rw [step, hn, takeTurn]
  rw [hturn]
  rcases hop with ⟨n, rfl⟩ | ⟨n, v, rfl⟩
  · simp only [hostTurn, State.popTurn_hostQueue, hq]
    exact hostAccess_outside hw
  · simp only [hostTurn, State.popTurn_hostQueue, hq]
    exact hostAccess_outside hw

/-- A step goes on, or the host makes a foreign access in it. -/
theorem step_goes_on_or_foreign (s : State) :
    (∃ t, step s = .next t) ∨
    (s.nextTurn = .host ∧ ∃ op rest off, s.hostQueue = op :: rest ∧ op.ForeignAt off) := by
  by_cases h : s.nextTurn = .host → ∀ op rest, s.hostQueue = op :: rest → op.inWindow = true
  · obtain ⟨t, ht, -⟩ := step_goes_on h
    exact .inl ⟨t, ht⟩
  · push Not at h
    obtain ⟨hn, op, rest, hq, hw⟩ := h
    obtain ⟨off, hf⟩ := op.exists_foreignAt hw
    exact .inr ⟨hn, op, rest, off, hq, hf⟩

/-- Settles O21. -/
theorem onlyForeignAccessStops : Obligations.OnlyForeignAccessStops := by
  intro s
  refine ⟨fun r h => ?_, fun r => ⟨fun h => ?_, ?_⟩⟩
  · rcases step_goes_on_or_foreign s with ⟨t, ht⟩ | ⟨hn, op, rest, off, hq, hf⟩
    · simp [ht] at h
    · simp [step_foreign hn hq hf] at h
  · rcases step_goes_on_or_foreign s with ⟨t, ht⟩ | ⟨hn, op, rest, off, hq, hf⟩
    · simp [ht] at h
    · rw [step_foreign hn hq hf] at h
      cases h
      exact ⟨hn, op, rest, off, hq, rfl, hf⟩
  · rintro ⟨hn, op, rest, off, hq, rfl, hf⟩
    exact step_foreign hn hq hf

/-- A step from a safe state goes on to a safe state: what is left of the queue was in the queue. -/
theorem Safe.goes_on {s : State} (h : Safe s) : ∃ t, step s = .next t ∧ Safe t := by
  have hall : ∀ op ∈ s.hostQueue, op.inWindow = true := List.all_eq_true.mp h
  obtain ⟨t, ht, hq⟩ := step_goes_on (s := s) fun _ op rest hq => hall op (by simp [hq])
  exact ⟨t, ht, List.all_eq_true.mpr fun op hop => hall op (hq.mem hop)⟩

/-- A run whose first step goes on is the run from there. -/
theorem core_run_succ {n : Nat} {s u : State} (h : step s = .next u) : core.run (n + 1) s = core.run n u := by
  have hs : core.step s = .next u := h
  simp only [Host.Core.run, hs]

/-- Settles O22, by induction on the number of steps. -/
theorem safeRunNeverStops : Obligations.SafeRunNeverStops := by
  intro n
  induction n with
  | zero => exact fun s h => ⟨s, rfl, h⟩
  | succ n ih =>
    intro s h
    obtain ⟨u, hu, hsafe⟩ := h.goes_on
    rw [core_run_succ hu]
    exact ih u hsafe

/-! ### The digest registers -/

theorem byteOf_word0 (b : Block) {k : Nat} (hk : k < 4) : byteOf (word0 b) k = b[k] := by
  interval_cases k <;> simp [word0]

theorem byteOf_word1 (b : Block) {k : Nat} (hk : k < 4) : byteOf (word1 b) k = b[k + 4] := by
  interval_cases k <;> simp [word1]

/-- Settles O23. -/
theorem digestRegistersPackAcc : Obligations.DigestRegistersPackAcc := by
  intro s k
  have hlane : k.val % 4 < 4 := Nat.mod_lt _ (by decide)
  split
  · have hk : k.val % 4 = k.val := by omega
    exact (byteOf_word0 s.acc hlane).trans (by simp [hk])
  · have hk : k.val % 4 + 4 = k.val := by omega
    exact (byteOf_word1 s.acc hlane).trans (by simp [hk])

end Sys2Proof.Machine

/-! PROOFS of the family 30_encoding.md: the decoder (what it answers for an encoded command, which rows of the table a
word selects, when it answers an error), then WAIT, then the HASH_MSG program of R64. -/

namespace Sys2Proof

open Machine

/-! ### The decoder against the encoder -/

/-- The fields of a well-formed command decode to it: the opcodes of R60 differ, and R59's operand checks pass. -/
theorem decodeFields_opcode {i : Instr} (h : i.wellFormed = true) :
    decodeFields (opcode i) (operandByte i) = .ok i := by
  cases i with
  | keyWord idx => exact indexOperand_eq_ok.mpr ⟨of_decide_eq_true h, rfl⟩
  | _ => rfl

/-- Settles O1. -/
theorem decodeInvertsEncode : Obligations.DecodeInvertsEncode := by
  intro i h
  rw [decode, rsvField_encode, if_pos rfl, opcField_encode, imm8Field_encode, decodeFields_opcode h]

/-- Settles O2: a decoded word and the encoding of its command have the same three fields. -/
theorem decodedWordIsItsEncoding : Obligations.DecodedWordIsItsEncoding := by
  intro w i h
  obtain ⟨hwf, hopc, himm, hrsv⟩ := fields_of_decode h
  exact ⟨hwf, word_eq_of_fields (by simp [hopc]) (by simp [himm]) (by simp [hrsv])⟩

/-! ### The table of R61 -/

/-- Every command's encoding has the command's row. -/
theorem encoded_statement (i : Instr) : Laws.Encoded.Statement i := by
  cases i with
  | nop => exact Laws.Encoded.nop
  | clrStatus => exact Laws.Encoded.clrStatus
  | encrypt => exact Laws.Encoded.encrypt
  | decrypt => exact Laws.Encoded.decrypt
  | hashInit => exact Laws.Encoded.hashInit
  | hashByte b => exact Laws.Encoded.hashByte b
  | hashFinal => exact Laws.Encoded.hashFinal
  | keyClear => exact Laws.Encoded.keyClear
  | keyChar c => exact Laws.Encoded.keyChar c
  | keyCommit => exact Laws.Encoded.keyCommit
  | keyWord idx => exact Laws.Encoded.keyWord idx

/-- A word selects a row when each of its fields, masked, is the pattern's. -/
theorem fields_of_selectedBy {row : OpcodeRow} {w : Word} (h : row.selectedBy w = true) :
    opcField w &&& opcField row.mask = opcField row.pattern ∧
      imm8Field w &&& imm8Field row.mask = imm8Field row.pattern ∧
      rsvField w &&& rsvField row.mask = rsvField row.pattern := by
  have hp : w &&& row.mask = row.pattern := eq_of_beq h
  rw [← hp]
  exact ⟨BitVec.extractLsb'_and.symm, BitVec.extractLsb'_and.symm, BitVec.extractLsb'_and.symm⟩

/-- Every row of the table looks at the whole of OPC and RSV, and asks for RSV = 0 (R61). -/
theorem opcodeTable_masks : ∀ row ∈ opcodeTable,
    opcField row.mask = BitVec.allOnes 8 ∧ rsvField row.mask = BitVec.allOnes 16 ∧ rsvField row.pattern = 0 := by
  decide

/-- No two rows of the table have the same opcode (R61). -/
theorem opcodeTable_opcode_injective : ∀ row ∈ opcodeTable, ∀ row' ∈ opcodeTable,
    opcField row'.pattern = opcField row.pattern → row' = row := by
  decide

/-- A word that selects a row of the table has that row's opcode, and no reserved bit. -/
theorem opcField_of_selectedBy {row : OpcodeRow} {w : Word} (hmem : row ∈ opcodeTable)
    (h : row.selectedBy w = true) : opcField w = opcField row.pattern ∧ rsvField w = 0 := by
  obtain ⟨hopc, -, hrsv⟩ := fields_of_selectedBy h
  obtain ⟨hmopc, hmrsv, hprsv⟩ := opcodeTable_masks row hmem
  rw [hmopc, BitVec.and_allOnes] at hopc
  rw [hmrsv, BitVec.and_allOnes, hprsv] at hrsv
  exact ⟨hopc, hrsv⟩

/-- The index check of R59, as R62 (d) words it. -/
theorem toNat_lt_eight_iff (b : Byte) : b.toNat < 8 ↔ b.extractLsb' 3 5 = 0 := by
  have hb := b.isLt
  rw [BitVec.toNat_eq, BitVec.extractLsb'_toNat, Nat.shiftRight_eq_div_pow]
  change b.toNat < 8 ↔ b.toNat / 2 ^ 3 % 2 ^ 5 = 0
  omega

/-- The mask of KEY_WORD's row keeps the bits above the index (R61). -/
theorem toNat_lt_eight_of_mask {b : Byte} (h : b &&& 0xF8 = 0) : b.toNat < 8 := by
  have hbits := congrArg (BitVec.extractLsb' 3 5) h
  rw [BitVec.extractLsb'_and, show BitVec.extractLsb' 3 5 (0xF8 : Byte) = BitVec.allOnes 5 from rfl,
    BitVec.and_allOnes] at hbits
  exact (toNat_lt_eight_iff b).mpr hbits

/-- An operand byte that passes a row's mask passes the decoder's check for the row's opcode. -/
theorem decodeFields_of_row : ∀ row ∈ opcodeTable, ∀ imm : Byte,
    imm &&& imm8Field row.mask = imm8Field row.pattern →
      ∃ i, decodeFields (opcField row.pattern) imm = .ok i := by
  simp only [opcodeTable, List.forall_mem_cons]
  refine ⟨?nop, ?clrStatus, ?encrypt, ?decrypt, ?hashInit, ?hashByte, ?hashFinal, ?keyClear, ?keyChar, ?keyCommit,
    ?keyWord, List.forall_mem_nil _⟩
  case hashByte => exact fun imm _ => ⟨.hashByte imm, rfl⟩
  case keyChar => exact fun imm _ => ⟨.keyChar imm, rfl⟩
  case keyWord => exact fun imm h => ⟨.keyWord imm, indexOperand_eq_ok.mpr ⟨toNat_lt_eight_of_mask h, rfl⟩⟩
  all_goals
    intro imm h
    obtain rfl : imm = 0x00 := (BitVec.and_allOnes (x := imm)).symm.trans h
    exact ⟨_, rfl⟩

/-- Settles O3. -/
theorem decodeSelectsUniqueTableRow : Obligations.DecodeSelectsUniqueTableRow := by
  intro w
  refine ⟨fun i hd => ?selects, fun e hd row hmem => ?none⟩
  case selects =>
    obtain ⟨hwf, rfl⟩ := decodedWordIsItsEncoding w i hd
    obtain ⟨-, -, -, row, hmem, hname, hsel⟩ := encoded_statement i hwf
    refine ⟨row, hmem, hsel, hname, fun row' hmem' hsel' => ?_⟩
    obtain ⟨hopc, -⟩ := opcField_of_selectedBy hmem hsel
    obtain ⟨hopc', -⟩ := opcField_of_selectedBy hmem' hsel'
    exact opcodeTable_opcode_injective row hmem row' hmem' (hopc'.symm.trans hopc)
  case none =>
    by_contra hsel
    rw [Bool.not_eq_false] at hsel
    obtain ⟨hopc, hrsv⟩ := opcField_of_selectedBy hmem hsel
    obtain ⟨-, himm, -⟩ := fields_of_selectedBy hsel
    obtain ⟨i, hi⟩ := decodeFields_of_row row hmem _ himm
    rw [decode, if_pos hrsv, hopc, hi] at hd
    cases hd

/-! ### Illegal words -/

theorem noOperand_error_iff {imm : Byte} {i : Instr} : (∃ e, noOperand imm i = .error e) ↔ imm ≠ 0 := by
  unfold noOperand
  split <;> simp_all

theorem indexOperand_error_iff {imm : Byte} : (∃ e, indexOperand imm = .error e) ↔ imm.extractLsb' 3 5 ≠ 0 := by
  rw [Ne, ← toNat_lt_eight_iff]
  unfold indexOperand
  split <;> simp_all

/-- When the opcode map answers an error: cases (b), (c) and (d) of R62. -/
theorem decodeFields_error_iff (opc imm : Byte) :
    (∃ e, decodeFields opc imm = .error e) ↔
      opc ∉ ([0x00, 0x01, 0x10, 0x11, 0x20, 0x21, 0x22, 0x30, 0x31, 0x32, 0x33] : List Byte) ∨
      (opc ∈ ([0x00, 0x01, 0x10, 0x11, 0x20, 0x22, 0x30, 0x32] : List Byte) ∧ imm ≠ 0) ∨
      (opc = 0x33 ∧ imm.extractLsb' 3 5 ≠ 0) := by
  by_cases h : opc ∈ ([0x00, 0x01, 0x10, 0x11, 0x20, 0x21, 0x22, 0x30, 0x31, 0x32, 0x33] : List Byte)
  · simp only [List.mem_cons, List.not_mem_nil, or_false] at h
    rcases h with rfl | rfl | rfl | rfl | rfl | rfl | rfl | rfl | rfl | rfl | rfl <;>
      simp [decodeFields, noOperand_error_iff, indexOperand_error_iff]
  · simp_all [decodeFields]

/-- Settles O4. -/
theorem illegalWordOnlyReportsError : Obligations.IllegalWordOnlyReportsError := by
  intro w
  refine ⟨?_, fun e s hd hr hj => hostWrite_cmd_illegal hr hj hd⟩
  rw [← decodeFields_error_iff, decode]
  by_cases hrsv : rsvField w = 0
  · rw [if_pos hrsv]
    exact (or_iff_right (not_not_intro hrsv)).symm
  · rw [if_neg hrsv]
    exact iff_of_true ⟨_, rfl⟩ (.inl hrsv)

/-- Settles O5. -/
theorem sampleWordsDecode : Obligations.SampleWordsDecode :=
  ⟨rfl, rfl, rfl, rfl, rfl, rfl, rfl, rfl, rfl, rfl, rfl, rfl, rfl, rfl, rfl⟩

end Sys2Proof

namespace Sys2Proof.Machine

/-! ### WAIT -/

/-- Bit 0 of STATUS is BUSY (R37). -/
theorem status_getLsbD_zero (s : State) : s.status.getLsbD 0 = s.busy := by
  obtain ⟨hbusy, -⟩ := status_fields s
  simpa using congrArg (fun b => b.getLsbD 0) hbusy

/-- A WAIT out of reset: its read is admitted and shows STATUS, of which the WAIT looks at BUSY (R42, R64). -/
theorem hostWait_admitted {s : State} (hr : s.inReset = false) (rest : List HostOp) :
    hostWait rest s =
      .next { s with
        reply := .data s.status, hostQueue := if s.job = .none then rest else s.hostQueue } := by
  have hread : hostRead 0x04 4 s = .next { s with reply := .data s.status } :=
    hostRead_admitted hr (by decide) (by decide) (by decide)
  simp only [hostWait, hread, replySaysIdle, status_getLsbD_zero]
  by_cases hj : s.job = .none
  · simp [(busy_eq_false_iff s).mpr hj, hj]
  · simp [(busy_eq_true_iff s).mpr hj, hj]

/-- Settles O60. -/
theorem waitEndsWhenIdle : Obligations.WaitEndsWhenIdle := by
  intro s rest hr hn hq
  have hturn : step s = hostWait rest s.popTurn := by
    simp [step, hn, takeTurn, hostTurn, hq]
  rw [hturn, hostWait_admitted (s := s.popTurn) hr, State.popTurn_hostQueue, hq]
  rfl

end Sys2Proof.Machine

/-! The HASH_MSG program of R64, in parts: a job taken to its end, the blocks of a message folded one after another,
what each command leaves of the hash, and the run itself. Its invariant is stated of the state as it will be once the
job in progress has ended (`drain`), so that engine steps, WAITs and the order of the turns do not matter to it. -/

namespace Sys2Proof.Machine

/-! ### A job taken to its end -/

/-- The engine steps until the CORE is idle: none without a job, 32 from a job's start. -/
def roundsLeft (s : State) : Nat := if s.job = .none then 0 else 32 - s.rnd.toNat

theorem roundsLeft_idle {s : State} (hj : s.job = .none) : roundsLeft s = 0 := if_pos hj

theorem roundsLeft_le (s : State) : roundsLeft s ≤ 32 := by
  unfold roundsLeft
  split <;> omega

theorem roundsLeft_eq_zero_iff (s : State) : roundsLeft s = 0 ↔ s.job = .none := by
  have hr := s.rnd.isLt
  by_cases hj : s.job = .none
  · exact iff_of_true (roundsLeft_idle hj) hj
  · rw [roundsLeft, if_neg hj]
    exact iff_of_false (by omega) hj

/-- The last round leaves no job. -/
theorem completeJob_job {s : State} (temp : Word) : (completeJob temp s).job = .none := by
  cases hj : s.job <;> simp [completeJob, hj]

/-- An engine step leaves one round less to run (R74). -/
theorem roundsLeft_engineStep (s : State) : roundsLeft (engineStep s) = roundsLeft s - 1 := by
  by_cases hj : s.job = .none
  · rw [engineStep_without_job hj, roundsLeft_idle hj]
  · by_cases hr : s.rnd.toNat < 31
    · have hrnd : (s.rnd + 1).toNat = s.rnd.toNat + 1 := by bv_omega
      rw [engineStep_round hj hr]
      simp only [roundsLeft, if_neg hj, hrnd]
      omega
    · rw [engineStep_last hj hr, roundsLeft_idle (completeJob_job _), roundsLeft, if_neg hj]
      omega

/-- The state once the job in progress has ended: 32 engine steps are enough for any job, and those after its end
change nothing (R74). -/
def drain (s : State) : State := engineStep^[32] s

theorem drain_job (s : State) : (drain s).job = .none := by
  have h : ∀ n, roundsLeft (engineStep^[n] s) = roundsLeft s - n := by
    intro n
    induction n with
    | zero => rfl
    | succ n ih => rw [Function.iterate_succ_apply', roundsLeft_engineStep, ih, Nat.sub_sub]
  rw [← roundsLeft_eq_zero_iff, drain, h]
  exact Nat.sub_eq_zero_of_le (roundsLeft_le s)

theorem drain_idle {s : State} (hj : s.job = .none) : drain s = s :=
  Function.iterate_fixed (engineStep_without_job hj) 32

/-- An engine step is a step towards the same end. -/
theorem drain_engineStep (s : State) : drain (engineStep s) = drain s := by
  rw [drain, ← Function.iterate_succ_apply, Function.iterate_succ_apply']
  exact engineStep_without_job (drain_job s)

/-- The block a job that starts in this state computes (R69). -/
def jobResult (s : State) : Block :=
  crypt s.sbox s.key (if s.job = .dec then ksDec else ksEnc) (blk s.left s.right)

/-- The 32 rounds of a job are the network on its start block, and the last of them completes the job with the
network's result (R69, R74). -/
theorem drain_started {s : State} (hj : s.job ≠ .none) (hr : s.rnd = 0) :
    drain s = completeJob (word1 (jobResult s)) { s with left := word0 (jobResult s) } := by
  have h31 : drain s = engineStep { s with left := (roundsOf s 31).1, right := (roundsOf s 31).2, rnd := 31 } := by
    rw [drain, Function.iterate_succ_apply', engineStep_iterate hj hr 31 le_rfl]
    rfl
  have hlast : roundsOf s 32 = ((roundsOf s 31).1,
      State.roundTemp { s with left := (roundsOf s 31).1, right := (roundsOf s 31).2, rnd := 31 }) := by
    rw [roundsOf_succ, roundTemp_eq]
    rfl
  have hresult : jobResult s = blk (roundsOf s 32).1 (roundsOf s 32).2 := by
    simp [jobResult, crypt, roundsOf]
  rw [h31, engineStep_last (by exact hj) (by simp), hresult, hlast, word0_blk, word1_blk]
  cases hc : s.job with
  | none => exact absurd hc hj
  | _ => simp [completeJob]

/-- What is not the CORE's does not matter to the engine. -/
theorem SameCore.drain {s u : State} (h : SameCore s u) : SameCore (drain s) (drain u) := by
  have hset : ∀ v : State,
      engineStep { v with hostQueue := u.hostQueue, turns := u.turns, reply := u.reply, freeIdx := u.freeIdx } =
        { engineStep v with
          hostQueue := u.hostQueue, turns := u.turns, reply := u.reply, freeIdx := u.freeIdx } := fun v =>
    (engineStep_environment v v.kmask v.data v.blkIn0 v.blkIn1 v.ovr v.err u.hostQueue u.turns u.reply
      u.freeIdx).trans (by rw [engineStep_frame])
  have h32 : Machine.drain u = _ := (congrArg Machine.drain h).trans (engineStep_iterate_commute hset 32 s)
  unfold SameCore
  rw [h32]
  rfl

/-! ### The blocks of a message -/

/-- The accumulator after the first `n` blocks of a byte sequence (R80, R81). -/
def foldBlocks (t : SBox) (key : KeyWords) (p : List Byte) (n : Nat) : Block :=
  (List.range n).foldl (fun acc b => fold acc (encryptBlock t key (blockAt p b)) (blockAt p b)) (repBlock 0)

theorem foldBlocks_succ (t : SBox) (key : KeyWords) (p : List Byte) (n : Nat) :
    foldBlocks t key p (n + 1) =
      fold (foldBlocks t key p n) (encryptBlock t key (blockAt p n)) (blockAt p n) := by
  simp [foldBlocks, List.range_succ, List.foldl_append]

@[simp] theorem blockAt_getElem (p : List Byte) (b k : Nat) (h : k < 8) :
    (blockAt p b)[k] = p.getD (8 * b + k) 0 := by
  simp [blockAt]

/-- Bytes appended later are not read. -/
theorem blockAt_append {p : List Byte} (x : List Byte) {b : Nat} (h : 8 * b + 8 ≤ p.length) :
    blockAt (p ++ x) b = blockAt p b := by
  ext k hk : 1
  rw [blockAt_getElem, blockAt_getElem, List.getD_append _ _ _ _ (by omega)]

theorem foldBlocks_append (t : SBox) (key : KeyWords) {p : List Byte} (x : List Byte) {n : Nat}
    (h : 8 * n ≤ p.length) : foldBlocks t key (p ++ x) n = foldBlocks t key p n := by
  induction n with
  | zero => simp [foldBlocks]
  | succ n ih => rw [foldBlocks_succ, foldBlocks_succ, ih (by omega), blockAt_append x (by omega)]

theorem pad_length_div (m : List Byte) : (pad m).length / 8 = m.length / 8 + 1 := by
  simp only [pad, padLength, List.length_append, List.length_replicate]
  omega

/-- The digest folds the whole blocks of the message and then one more, the padded one (R78, R81). -/
theorem hash_eq_fold (t : SBox) (key : KeyWords) (m : List Byte) :
    hash t key m =
      fold (foldBlocks t key m (m.length / 8)) (encryptBlock t key (blockAt (pad m) (m.length / 8)))
        (blockAt (pad m) (m.length / 8)) := by
  have h : hash t key m = foldBlocks t key (pad m) ((pad m).length / 8) := rfl
  rw [h, pad_length_div, foldBlocks_succ, pad, foldBlocks_append t key _ (by omega)]

/-! ### A hash in progress -/

/-- The bytes `m` have been absorbed under the table `t` and the key `key`: the whole blocks are folded into ACC, and
the rest is in BUF (R28, R29, R85). -/
structure Absorbed (t : SBox) (key : KeyWords) (m : List Byte) (s : State) : Prop where
  phase : s.phase = .absorb
  acc : s.acc = foldBlocks t key m (m.length / 8)
  count : s.bufcnt.toNat = m.length % 8
  buffered : ∀ (k : Nat) (hk : k < 8), k < m.length % 8 → s.buf[k] = m.getD (8 * (m.length / 8) + k) 0

section

variable {t : SBox} {key : KeyWords} {m : List Byte} {s : State} (h : Absorbed t key m s)
include h

/-- The buffer with the next byte put in holds the bytes of the block so far. -/
theorem Absorbed.bufWith_getElem (b : Byte) {k : Nat} (hk : k < 8) (hle : k ≤ m.length % 8) :
    (s.bufWith b)[k] = (m ++ [b]).getD (8 * (m.length / 8) + k) 0 := by
  simp only [State.bufWith, h.count]
  by_cases he : k = m.length % 8
  · have hi : 8 * (m.length / 8) + k = m.length := by omega
    subst he
    rw [Vector.getElem_set_self, hi]
    simp
  · rw [Vector.getElem_set_ne _ _ (Ne.symm he), h.buffered k hk (by omega), List.getD_append _ _ _ _ (by omega)]

/-- The eighth byte makes the buffer the next block of the message (R85). -/
theorem Absorbed.bufWith_eq_blockAt (b : Byte) (h7 : m.length % 8 = 7) :
    s.bufWith b = blockAt (m ++ [b]) (m.length / 8) := by
  ext k hk : 1
  rw [h.bufWith_getElem b hk (by omega), blockAt_getElem]

/-- HASH_FINAL's block is the last block of the padded message (R78, R86). -/
theorem Absorbed.paddedBlock_eq_blockAt : s.paddedBlock = blockAt (pad m) (m.length / 8) := by
  ext k hk : 1
  rw [blockAt_getElem]
  simp only [State.paddedBlock, Vector.getElem_ofFn, h.count, pad, padLength]
  split
  · rw [Fin.getElem_fin, h.buffered k hk ‹_›, List.getD_append _ _ _ _ (by omega)]
  · rw [List.getD_append_right _ _ _ _ (by omega)]
    exact (List.getD_replicate _ (by omega)).symm

end

/-! ### What each command leaves of a hash -/

/-- What no engine step writes, the rest of a job does not write. -/
theorem drain_preserves {α : Type} {f : State → α} (h : ∀ s, f (engineStep s) = f s) (s : State) :
    f (drain s) = f s :=
  ((show Function.Semiconj f engineStep id from h).iterate_right 32 s).trans (by simp)

@[simp] theorem drain_key (s : State) : (drain s).key = s.key := drain_preserves engineStep_key s

@[simp] theorem drain_kmask (s : State) : (drain s).kmask = s.kmask := drain_preserves engineStep_kmask s

@[simp] theorem drain_sbox (s : State) : (drain s).sbox = s.sbox := drain_preserves engineStep_sbox s

/-- The CORE is idle and has the key `key`, its ROM the table `t`. -/
structure Keyed (t : SBox) (key : KeyWords) (s : State) : Prop where
  idle : s.job = .none
  keyv : s.keyv = true
  key : s.key = key
  sbox : s.sbox = t

/-- A command that is none of the three that write the key leaves the CORE, once its job has ended, idle with the
same key (R20, R21). -/
theorem Keyed.accept {t : SBox} {key : KeyWords} {s : State} {i : Instr} (h : Keyed t key s)
    (hi : ¬ (i = .keyCommit ∨ i = .keyClear ∨ ∃ idx, i = .keyWord idx)) :
    Keyed t key (drain (effectOf i s)) := by
  obtain ⟨hkey, hkmask⟩ | ⟨-, hi'⟩ := effectOf_key_cases i s
  · obtain ⟨hsbox, -⟩ := effectOf_environment i s
    refine ⟨drain_job _, ?_, by rw [drain_key, hkey, h.key], by rw [drain_sbox, hsbox, h.sbox]⟩
    rw [keyv_eq_true_iff, drain_kmask, hkmask]
    exact (keyv_eq_true_iff s).mp h.keyv
  · exact absurd hi' hi

/-- With a key ENCRYPT and DECRYPT start their job and report OK (R75, R76). -/
theorem startCipher_keyed {s : State} (hk : s.keyv = true) (j : Job) :
    startCipher j s = (s.startJob j s.blkIn0 s.blkIn1).report .ok := if_pos hk

/-- With a key HASH_INIT empties the accumulator and the buffer and reports OK (R84). -/
theorem startHash_keyed {s : State} (hk : s.keyv = true) :
    startHash s =
      { s with acc := repBlock 0, buf := repBlock 0, bufcnt := 0, phase := .absorb }.report .ok := if_pos hk

/-- In ABSORB, HASH_BYTE with room in the buffer (R85). -/
theorem absorbByte_buffers {s : State} (hp : s.phase = .absorb) (hc : s.bufcnt.toNat < 7) (b : Byte) :
    absorbByte b s = { s with buf := s.bufWith b, bufcnt := s.bufcnt + 1 }.report .ok := by
  simp only [absorbByte, if_pos hp, if_pos hc]

/-- In ABSORB, the HASH_BYTE that completes a block (R85). -/
theorem absorbByte_starts {s : State} (hp : s.phase = .absorb) (hc : ¬ s.bufcnt.toNat < 7) (b : Byte) :
    absorbByte b s =
      ({ s with buf := s.bufWith b, mblk := s.bufWith b, bufcnt := 0 }.startJob .hblk (word0 (s.bufWith b))
        (word1 (s.bufWith b))).report .ok := by
  simp only [absorbByte, if_pos hp, if_neg hc]

/-- In ABSORB, HASH_FINAL starts its job and reports OK (R86). -/
theorem finishHash_starts {s : State} (hp : s.phase = .absorb) :
    finishHash s =
      ({ s with mblk := s.paddedBlock, bufcnt := 0 }.startJob .hfin (word0 s.paddedBlock)
        (word1 s.paddedBlock)).report .ok := if_pos hp

/-- A filler command that finds a key reports OK, and leaves PHASE, ACC and BUF alone, also when its job ends. -/
theorem filler_frame {i : Instr} (hi : isFiller i = true) {s : State} (hj : s.job = .none) (hk : s.keyv = true) :
    (effectOf i s).err = .ok ∧ (drain (effectOf i s)).phase = s.phase ∧ (drain (effectOf i s)).acc = s.acc ∧
      (drain (effectOf i s)).buf = s.buf ∧ (drain (effectOf i s)).bufcnt = s.bufcnt := by
  cases i with
  | nop | clrStatus =>
    rw [drain_idle (by exact hj)]
    exact ⟨rfl, rfl, rfl, rfl, rfl⟩
  | encrypt | decrypt =>
    rw [effectOf, startCipher_keyed hk, drain_started (by simp) rfl]
    exact ⟨rfl, rfl, rfl, rfl, rfl⟩
  | _ => cases hi

section

variable {t : SBox} {key : KeyWords} {s : State} (hk : Keyed t key s)
include hk

/-- HASH_INIT starts a hash of no bytes (R84). -/
theorem Absorbed.init : (startHash s).err = .ok ∧ Absorbed t key [] (drain (startHash s)) := by
  rw [startHash_keyed hk.keyv, drain_idle (by exact hk.idle)]
  exact ⟨rfl, { phase := rfl, acc := rfl, count := rfl, buffered := fun k _ h => absurd h (Nat.not_lt_zero k) }⟩

/-- HASH_BYTE adds its byte to the bytes absorbed, the eighth byte of a block once its job has ended (R85). -/
theorem Absorbed.byte {m : List Byte} (h : Absorbed t key m s) (b : Byte) :
    (absorbByte b s).err = .ok ∧ Absorbed t key (m ++ [b]) (drain (absorbByte b s)) := by
  have hlen : (m ++ [b]).length = m.length + 1 := by simp
  have hcount := h.count
  by_cases hc : s.bufcnt.toNat < 7
  · have hdiv : (m ++ [b]).length / 8 = m.length / 8 := by omega
    have hmod : (m ++ [b]).length % 8 = m.length % 8 + 1 := by omega
    rw [absorbByte_buffers h.phase hc, drain_idle (by exact hk.idle)]
    refine ⟨rfl, { phase := h.phase, acc := ?_, count := ?_, buffered := fun k hk8 hlt => ?_ }⟩
    · rw [hdiv, foldBlocks_append t key [b] (by omega)]
      exact h.acc
    · rw [hmod, ← hcount]
      change (s.bufcnt + 1).toNat = s.bufcnt.toNat + 1
      bv_omega
    · rw [hdiv]
      exact h.bufWith_getElem b hk8 (by omega)
  · have hdiv : (m ++ [b]).length / 8 = m.length / 8 + 1 := by omega
    have hmod : (m ++ [b]).length % 8 = 0 := by omega
    have hblock := h.bufWith_eq_blockAt b (by omega)
    rw [absorbByte_starts h.phase hc, drain_started (by simp) rfl]
    refine ⟨rfl, { phase := h.phase, acc := ?_, count := hmod.symm, buffered := fun k _ hlt => by omega }⟩
    rw [hdiv, foldBlocks_succ, foldBlocks_append t key [b] (by omega), ← hblock, ← h.acc]
    simp [completeJob, jobResult, encryptBlock, hk.key, hk.sbox]

/-- HASH_FINAL ends, once its job has ended, with the digest of the bytes absorbed (R81, R86). -/
theorem Absorbed.final {m : List Byte} (h : Absorbed t key m s) :
    (finishHash s).err = .ok ∧ (drain (finishHash s)).phase = .done ∧
      (drain (finishHash s)).acc = hash t key m := by
  rw [finishHash_starts h.phase, drain_started (by simp) rfl]
  refine ⟨rfl, rfl, ?_⟩
  rw [hash_eq_fold, ← h.paddedBlock_eq_blockAt, ← h.acc]
  simp [completeJob, jobResult, encryptBlock, hk.key, hk.sbox]

end

/-! ### The stages of a hash program -/

/-- Where the hash of `m` stands in the state `s`, the list being those of its own commands that are still to come. -/
inductive HashStage (t : SBox) (key : KeyWords) (m : List Byte) (s : State) : List Instr → Prop where
  | before : HashStage t key m s (.hashInit :: (m.map .hashByte ++ [.hashFinal]))
  | absorbing {front back : List Byte} (split : front ++ back = m) (absorbed : Absorbed t key front s) :
    HashStage t key m s (back.map .hashByte ++ [.hashFinal])
  | done (phase : s.phase = .done) (acc : s.acc = hash t key m) : HashStage t key m s []

/-- A stage is a matter of PHASE, ACC and BUF. -/
theorem HashStage.of_eq {t : SBox} {key : KeyWords} {m : List Byte} {s u : State} {rest : List Instr}
    (h : HashStage t key m s rest) (hphase : u.phase = s.phase) (hacc : u.acc = s.acc) (hbuf : u.buf = s.buf)
    (hcnt : u.bufcnt = s.bufcnt) : HashStage t key m u rest := by
  cases h with
  | before => exact .before
  | absorbing hm ha =>
    exact .absorbing hm
      { phase := hphase.trans ha.phase, acc := hacc.trans ha.acc, count := by rw [hcnt, ha.count]
        buffered := by rw [hbuf]; exact ha.buffered }
  | done hp ha => exact .done (hphase.trans hp) (hacc.trans ha)

/-- The hash's next own command brings the hash one stage on. -/
theorem HashStage.own {t : SBox} {key : KeyWords} {m : List Byte} {s : State} {i : Instr} {rest : List Instr}
    (h : HashStage t key m s (i :: rest)) (hk : Keyed t key s) :
    i.wellFormed = true ∧ (effectOf i s).err = .ok ∧ Keyed t key (drain (effectOf i s)) ∧
      HashStage t key m (drain (effectOf i s)) rest := by
  generalize hl : i :: rest = l at h
  cases h with
  | before =>
    cases hl
    obtain ⟨herr, ha⟩ := Absorbed.init hk
    exact ⟨rfl, herr, hk.accept (by simp), .absorbing (List.nil_append m) ha⟩
  | @absorbing front back hm ha =>
    cases back with
    | nil =>
      cases hl
      obtain rfl : front = m := by simpa using hm
      obtain ⟨herr, hp, hacc⟩ := ha.final hk
      exact ⟨rfl, herr, hk.accept (by simp), .done hp hacc⟩
    | cons b back =>
      cases hl
      obtain ⟨herr, hb⟩ := ha.byte hk b
      exact ⟨rfl, herr, hk.accept (by simp), .absorbing (by simpa using hm) hb⟩
  | done => cases hl

/-- A filler leaves the hash at its stage (R87). -/
theorem HashStage.filler {t : SBox} {key : KeyWords} {m : List Byte} {s : State} {i : Instr} {rest : List Instr}
    (h : HashStage t key m s rest) (hk : Keyed t key s) (hi : isFiller i = true) :
    i.wellFormed = true ∧ (effectOf i s).err = .ok ∧ Keyed t key (drain (effectOf i s)) ∧
      HashStage t key m (drain (effectOf i s)) rest := by
  obtain ⟨herr, hphase, hacc, hbuf, hcnt⟩ := filler_frame hi hk.idle hk.keyv
  refine ⟨?_, herr, hk.accept ?_, h.of_eq hphase hacc hbuf hcnt⟩
  · cases i with
    | keyWord idx => cases hi
    | _ => rfl
  · rintro (rfl | rfl | ⟨idx, rfl⟩) <;> cases hi

/-- In the state `s`, idle, the commands `todo` are still to come, and the hash of `m` is at the stage that the own
ones among them say. -/
structure Hashing (t : SBox) (key : KeyWords) (m : List Byte) (todo : List Instr) (s : State) : Prop where
  keyed : Keyed t key s
  stage : HashStage t key m s (todo.filter fun i => !isFiller i)

/-- The next command of the program has an encoding, reports OK, and brings the hash on once its job has ended. -/
theorem Hashing.accept {t : SBox} {key : KeyWords} {m : List Byte} {i : Instr} {todo : List Instr} {s : State}
    (h : Hashing t key m (i :: todo) s) :
    i.wellFormed = true ∧ (effectOf i s).err = .ok ∧ Hashing t key m todo (drain (effectOf i s)) := by
  obtain ⟨hk, hstage⟩ := h
  cases hi : isFiller i with
  | true =>
    obtain ⟨hwf, herr, hk', hstage'⟩ := HashStage.filler (by simpa [hi] using hstage) hk hi
    exact ⟨hwf, herr, hk', hstage'⟩
  | false =>
    obtain ⟨hwf, herr, hk', hstage'⟩ := HashStage.own (by simpa [hi] using hstage) hk
    exact ⟨hwf, herr, hk', hstage'⟩

theorem Hashing.of_sameCore {t : SBox} {key : KeyWords} {m : List Byte} {todo : List Instr} {s u : State}
    (h : Hashing t key m todo s) (hsu : SameCore s u) : Hashing t key m todo u := by
  rw [hsu]
  exact ⟨{ h.keyed with }, h.stage.of_eq rfl rfl rfl rfl⟩

/-! ### The run of a hash program -/

@[simp] theorem engineStep_ovr (s : State) : (engineStep s).ovr = s.ovr := by
  rw [engineStep_frame]

@[simp] theorem engineStep_turns (s : State) : (engineStep s).turns = s.turns := by
  rw [engineStep_frame]

@[simp] theorem engineStep_hostQueue (s : State) : (engineStep s).hostQueue = s.hostQueue := by
  rw [engineStep_frame]

/-- No command sets OVR (R36). -/
theorem effectOf_ovr (i : Instr) {s : State} (h : s.ovr = false) : (effectOf i s).ovr = false := by
  cases i <;>
    simp only [effectOf, startCipher, startHash, absorbByte, finishHash, unlessLocked, clearKey, receiveChar,
      commitKey, loadWord] <;>
    (repeat' split) <;> simp [h]

/-- Without resets the next turn is the host's or the engine's; past the end of the list it is the engine's while a
job runs and the host's otherwise (R17, R131). -/
theorem NoReset.nextTurn_cases {s : State} (h : NoReset s) :
    (s.nextTurn = .host ∧ (s.turns = [] → s.job = .none)) ∨
      (s.nextTurn = .engine ∧ (s.turns = [] → s.job ≠ .none)) := by
  unfold State.nextTurn
  cases ht : s.turns with
  | cons turn rest =>
    have hturn : turn = .host ∨ turn = .engine := h turn (by simp [ht])
    simpa using hturn
  | nil => cases hj : s.job <;> simp [State.busy, hj]

theorem NoReset.tail {s u : State} (h : NoReset s) (hu : u.turns = s.turns.tail) : NoReset u := fun turn hturn =>
  h turn (List.mem_of_mem_tail (hu ▸ hturn))

/-- The state `s` in the run of a hash program whose commands `todo` are still to come: the CORE is idle and the host
is about to write the next of them, or the host waits; and the hash is at its stage once the job in progress has
ended. -/
structure HashRun (t : SBox) (key : KeyWords) (m : List Byte) (todo : List Instr) (s : State) : Prop where
  released : s.inReset = false
  noReset : NoReset s
  noOverrun : s.ovr = false
  reported : todo = [] → s.err = .ok
  queue : (s.job = .none ∧ s.hostQueue = todo.flatMap issue) ∨ s.hostQueue = .wait :: todo.flatMap issue
  hashing : Hashing t key m todo (drain s)

/-- A bound on the steps to the end of a run: each step takes a turn from the list, or, once that is used up, runs a
round of the job in progress or takes an operation from the host's queue, which at most starts a job of 32 rounds. -/
def work (s : State) : Nat := s.turns.length + 33 * s.hostQueue.length + roundsLeft s

theorem work_eq_zero {s : State} (h : work s = 0) : Quiescent s := by
  unfold work at h
  exact ⟨List.length_eq_zero_iff.mp (by omega), (roundsLeft_eq_zero_iff s).mp (by omega)⟩

/-- A step that takes an operation from the host's queue leaves less work, even when a job has started. -/
theorem work_of_operation {s u : State} (hturns : u.turns = s.turns.tail)
    (hqueue : u.hostQueue.length + 1 = s.hostQueue.length) : work u ≤ work s - 1 := by
  have hrounds := roundsLeft_le u
  simp only [work, hturns, List.length_tail]
  omega

/-- A step that takes nothing from the queue leaves less work when it takes a turn from the list or runs a round. -/
theorem work_of_turn {s u : State} (hturns : u.turns = s.turns.tail) (hqueue : u.hostQueue = s.hostQueue)
    (hrounds : roundsLeft u ≤ roundsLeft s) (hdefault : s.turns = [] → roundsLeft u < roundsLeft s) :
    work u ≤ work s - 1 := by
  have hless : s.turns.length ≠ 0 ∨ roundsLeft u < roundsLeft s :=
    or_iff_not_imp_left.mpr fun h0 => hdefault (List.length_eq_zero_iff.mp (not_not.mp h0))
  simp only [work, hturns, hqueue, List.length_tail]
  omega

section

variable {t : SBox} {key : KeyWords} {m : List Byte} {todo : List Instr} {s : State} (h : HashRun t key m todo s)
include h

/-- A step that changes nothing of the CORE keeps the run, when what the host has still to do fits the same commands. -/
theorem HashRun.of_sameCore {u : State} (hsu : SameCore s u) (hturns : u.turns = s.turns.tail)
    (hqueue : (s.job = .none ∧ u.hostQueue = todo.flatMap issue) ∨ u.hostQueue = .wait :: todo.flatMap issue) :
    HashRun t key m todo u := by
  have hcore : u.inReset = s.inReset ∧ u.ovr = s.ovr ∧ u.err = s.err ∧ u.job = s.job := by
    rw [hsu]
    exact ⟨rfl, rfl, rfl, rfl⟩
  obtain ⟨hr, hovr, herr, hj⟩ := hcore
  exact {
    released := hr.trans h.released
    noReset := h.noReset.tail hturns
    noOverrun := hovr.trans h.noOverrun
    reported := fun he => herr.trans (h.reported he)
    queue := hj ▸ hqueue
    hashing := h.hashing.of_sameCore hsu.drain }

/-- An engine step keeps the run. -/
theorem HashRun.engineStep : HashRun t key m todo (engineStep s) where
  released := by simpa using h.released
  noReset := by simpa [NoReset] using h.noReset
  noOverrun := by simpa using h.noOverrun
  reported := by simpa using h.reported
  queue := by
    rw [engineStep_hostQueue]
    refine h.queue.imp_left fun ⟨hj, hq⟩ => ⟨?_, hq⟩
    rw [engineStep_without_job hj, hj]
  hashing := by simpa [drain_engineStep] using h.hashing

/-- The engine's turn: the job in progress gets on. -/
theorem HashRun.engine_turn (hn : s.nextTurn = .engine) (hb : s.turns = [] → s.job ≠ .none) :
    ∃ u, step s = .next u ∧ HashRun t key m todo u ∧ work u ≤ work s - 1 := by
  have hturn : engineTurn s.popTurn = Machine.engineStep s.popTurn := by
    simp [engineTurn, h.released]
  have hrounds : roundsLeft (Machine.engineStep s.popTurn) = roundsLeft s - 1 := roundsLeft_engineStep s.popTurn
  refine ⟨Machine.engineStep s.popTurn, by rw [step, hn, takeTurn, hturn],
    (h.of_sameCore (u := s.popTurn) rfl rfl h.queue).engineStep, ?_⟩
  refine work_of_turn (by simp) (by simp) (by omega) fun he => ?_
  have hbusy : roundsLeft s ≠ 0 := fun h0 => hb he ((roundsLeft_eq_zero_iff s).mp h0)
  omega

/-- The host writes the next command to CMD, and the idle CORE accepts it. -/
theorem HashRun.write_turn {i : Instr} {rest : List Instr} (htodo : todo = i :: rest) (hn : s.nextTurn = .host)
    (hj : s.job = .none) (hq : s.hostQueue = todo.flatMap issue) :
    ∃ u, step s = .next u ∧ HashRun t key m rest u ∧ work u ≤ work s - 1 := by
  subst htodo
  have hcmd : s.hostQueue = .write 0x00 4 (encode i) :: .wait :: rest.flatMap issue := hq
  obtain ⟨v, hv⟩ : ∃ v : State, v = { s with
    turns := s.turns.tail, hostQueue := .wait :: rest.flatMap issue, reply := .written } := ⟨_, rfl⟩
  have hsame : SameCore s v := by rw [hv]; rfl
  obtain ⟨hwf, herr, hnext⟩ := ((drain_idle hj ▸ h.hashing).of_sameCore hsame).accept
  obtain ⟨-, hr, hqueue, hturns, -⟩ := effectOf_environment i v
  have hqueue' : (effectOf i v).hostQueue = .wait :: rest.flatMap issue := by rw [hqueue, hv]
  have hturns' : (effectOf i v).turns = s.turns.tail := by rw [hturns, hv]
  refine ⟨effectOf i v, ?_, ?_, work_of_operation hturns' (by rw [hqueue', hcmd]; rfl)⟩
  · rw [step_accepted hn h.released hj hcmd, decodeInvertsEncode i hwf, hv]
  · exact {
      released := by rw [hr, hv]; exact h.released
      noReset := h.noReset.tail hturns'
      noOverrun := effectOf_ovr i (by rw [hv]; exact h.noOverrun)
      reported := fun _ => herr
      queue := .inr hqueue'
      hashing := hnext }

/-- The host reads STATUS in a WAIT, which ends when the CORE is idle. -/
theorem HashRun.wait_turn (hn : s.nextTurn = .host) (hb : s.turns = [] → s.job = .none)
    (hq : s.hostQueue = .wait :: todo.flatMap issue) :
    ∃ u, step s = .next u ∧ HashRun t key m todo u ∧ work u ≤ work s - 1 := by
  refine ⟨_, waitEndsWhenIdle s _ h.released hn hq, h.of_sameCore rfl rfl ?_, ?_⟩
  · by_cases hj : s.job = .none <;> simp [hj]
  · by_cases hj : s.job = .none
    · exact work_of_operation rfl (by simp [hj, hq])
    · exact work_of_turn rfl (by simp [hj, hq]) le_rfl fun he => absurd (hb he) hj

/-- The host has nothing left to do. -/
theorem HashRun.empty_turn (htodo : todo = []) (hn : s.nextTurn = .host) (hj : s.job = .none)
    (hq : s.hostQueue = todo.flatMap issue) :
    ∃ u, step s = .next u ∧ HashRun t key m todo u ∧ work u ≤ work s - 1 := by
  have hempty : s.hostQueue = [] := by rw [hq, htodo]; rfl
  have hpop : roundsLeft s.popTurn = 0 := roundsLeft_idle hj
  refine ⟨s.popTurn, ?_, h.of_sameCore rfl rfl (.inl ⟨hj, hq⟩), ?_⟩
  · simp [step, hn, takeTurn, hostTurn, hempty]
  · simp [work, hpop, roundsLeft_idle hj, hempty]

/-- The host's turn: it writes a command, reads STATUS in a WAIT, or has nothing left to do. -/
theorem HashRun.host_turn (hn : s.nextTurn = .host) (hb : s.turns = [] → s.job = .none) :
    ∃ todo' u, step s = .next u ∧ HashRun t key m todo' u ∧ work u ≤ work s - 1 := by
  rcases h.queue with ⟨hj, hq⟩ | hq
  · cases htodo : todo with
    | nil => exact ⟨todo, h.empty_turn htodo hn hj hq⟩
    | cons i rest => exact ⟨rest, h.write_turn htodo hn hj hq⟩
  · exact ⟨todo, h.wait_turn hn hb hq⟩

/-- Every step goes on, keeps the run, and leaves less work while there is any. -/
theorem HashRun.step : ∃ todo' u, step s = .next u ∧ HashRun t key m todo' u ∧ work u ≤ work s - 1 := by
  rcases h.noReset.nextTurn_cases with ⟨hn, hb⟩ | ⟨hn, hb⟩
  · exact h.host_turn hn hb
  · exact ⟨todo, h.engine_turn hn hb⟩

/-- With no work left the program has run to its end, and the digest stands in ACC. -/
theorem HashRun.finished (hw : work s = 0) :
    Quiescent s ∧ s.phase = .done ∧ s.acc = hash t key m ∧ s.err = .ok ∧ s.ovr = false := by
  obtain ⟨hempty, hj⟩ := work_eq_zero hw
  have htodo : todo = [] := by
    rcases h.queue with ⟨-, hq⟩ | hq
    · cases todo with
      | nil => rfl
      | cons i rest => cases hempty.symm.trans hq
    · cases hempty.symm.trans hq
  subst htodo
  have hstage : HashStage t key m (drain s) [] := h.hashing.stage
  rw [drain_idle hj] at hstage
  generalize hl : ([] : List Instr) = l at hstage
  cases hstage with
  | before => cases hl
  | absorbing => simp at hl
  | done hp ha => exact ⟨⟨hempty, hj⟩, hp, ha, h.reported rfl, h.noOverrun⟩

end

/-- A run of a hash program that makes at least as many steps as there is work ends with no work left. -/
theorem HashRun.run {t : SBox} {key : KeyWords} {m : List Byte} (n : Nat) :
    ∀ {todo : List Instr} {s : State}, HashRun t key m todo s → work s ≤ n →
      ∃ todo' u, core.run n s = .next u ∧ HashRun t key m todo' u ∧ work u = 0 := by
  induction n with
  | zero => exact fun h hw => ⟨_, _, rfl, h, Nat.le_zero.mp hw⟩
  | succ n ih =>
    intro todo s h hw
    obtain ⟨todo', u, hu, hrun, hless⟩ := h.step
    rw [core_run_succ hu]
    exact ih hrun (by omega)

/-- Settles O42: the work to do bounds the steps to the end. -/
theorem hashProgramTerminatesWithDigest : Obligations.HashProgramTerminatesWithDigest := by
  intro s m cmds hown hq hr hj hk hnr hovr
  have hrun : HashRun s.sbox s.key m cmds s := {
    released := hr
    noReset := hnr
    noOverrun := hovr
    reported := fun he => by cases he; cases hown
    queue := .inl ⟨hj, hq⟩
    hashing := by
      rw [drain_idle hj]
      exact ⟨⟨hj, hk, rfl, rfl⟩, by rw [hown]; exact .before⟩ }
  refine ⟨work s, fun n hn => ?_⟩
  obtain ⟨_, u, hu, hend, hwork⟩ := hrun.run n hn
  exact ⟨u, hu, hend.finished hwork⟩

end Sys2Proof.Machine

/-! PROOFS of the family 40_cipher.md: the substitution by its lanes, the round function by its bits, the network as
one fold of Feistel rounds over its round keys, and the cipher commands as jobs taken to their end. -/

namespace Sys2Proof.Machine

/-! ### The substitution -/

/-- A word is its eight nibbles (R65). -/
theorem word_eq_of_nibbles {x y : Word} (h : ∀ j : Fin 8, nibbleOf x j = nibbleOf y j) : x = y := by
  apply BitVec.eq_of_getLsbD_eq
  intro i hi
  have hbit := congrArg (fun n : Nibble => n.getLsbD (i % 4)) (h ⟨i / 4, by omega⟩)
  simpa [nibbleOf, Nat.mod_lt, Nat.div_add_mod] using hbit

@[simp] theorem nibbleOf_or (x y : Word) (j : Nat) : nibbleOf (x ||| y) j = nibbleOf x j ||| nibbleOf y j :=
  BitVec.extractLsb'_or ..

/-- A lane has its row's entry in its own place and zeros elsewhere (R65). -/
theorem nibbleOf_lane (t : SBox) (x : Word) (i j : Fin 8) :
    nibbleOf (lane t x i) j = if i = j then t[j][(nibbleOf x j).toNat] else 0 := by
  ext k hk
  by_cases hij : i = j
  · subst hij
    have hlt : 4 * i.val + k < 32 := by omega
    simp [nibbleOf, lane, hlt, BitVec.getLsbD_eq_getElem hk]
  · have hne : i.val ≠ j.val := fun h => hij (Fin.ext h)
    rw [if_neg hij]
    rcases Nat.lt_or_gt_of_ne hne with h | h
    · have hge : 4 ≤ 4 * j.val + k - 4 * i.val := by omega
      simp [nibbleOf, lane, BitVec.getLsbD_of_ge _ _ hge]
    · have hlt : 4 * j.val + k < 4 * i.val := by omega
      simp [nibbleOf, lane, hlt]

/-- Each nibble of `S(x)` is its own row at that nibble of `x` (R65). -/
theorem nibbleOf_subst (t : SBox) (x : Word) (j : Fin 8) :
    nibbleOf (subst t x) j = t[j][(nibbleOf x j).toNat] := by
  simp only [subst, nibbleOf_or, nibbleOf_lane]
  fin_cases j <;> simp

/-- No two words have the same image when no row has an entry twice (R65). -/
theorem subst_injective {t : SBox} (ht : rowsArePermutations t) : Function.Injective (subst t) := by
  intro x y hxy
  refine word_eq_of_nibbles fun j => BitVec.eq_of_toNat_eq ?_
  have hentry : t[j][(nibbleOf x j).toNat] = t[j][(nibbleOf y j).toNat] := by
    rw [← nibbleOf_subst, hxy, nibbleOf_subst]
  exact congrArg Fin.val (ht j (nibbleOf x j).toFin (nibbleOf y j).toFin hentry)

theorem subst_identity {t : SBox} (ht : ∀ (j : Fin 8) (n : Fin 16), t[j][n] = BitVec.ofFin n) (x : Word) :
    subst t x = x :=
  word_eq_of_nibbles fun j => (nibbleOf_subst t x j).trans (ht j (nibbleOf x j).toFin)

/-- Settles O26. -/
theorem substitutionActsByLanes : Obligations.SubstitutionActsByLanes :=
  ⟨nibbleOf_subst, fun _ ht => Finite.injective_iff_bijective.mp (subst_injective ht), fun _ x ht =>
    subst_identity ht x⟩

/-! ### The round function -/

/-- `rol32` is the library's rotation (R11). -/
theorem rol32_eq_rotateLeft {n : Nat} (hn : n < 32) (x : Word) : rol32 x n = x.rotateLeft n := by
  rw [BitVec.rotateLeft_def, Nat.mod_eq_of_lt hn]
  rfl

theorem rol32_getLsbD {n i : Nat} (hn : n < 32) (hi : i < 32) (x : Word) :
    (rol32 x n).getLsbD ((i + n) % 32) = x.getLsbD i := by
  rw [rol32_eq_rotateLeft hn, BitVec.getLsbD_rotateLeft, Nat.mod_eq_of_lt hn]
  by_cases h : i + n < 32
  · simp [Nat.mod_eq_of_lt h]
    omega
  · have hmod : (i + n) % 32 = i + n - 32 := by omega
    have hlt : i + n - 32 < n := by omega
    have hback : 32 - n + (i + n - 32) = i := by omega
    simp [hmod, hlt, hback]

/-- The round function reads its operands through their sum only (R66). -/
theorem roundFn_congr (t : SBox) {x k x' k' : Word} (h : x + k = x' + k') : roundFn t x k = roundFn t x' k' := by
  simp only [roundFn, h]

/-- Settles O27. -/
theorem roundFunctionAddsSubstitutesRotates : Obligations.RoundFunctionAddsSubstitutesRotates := by
  refine fun t x k => ⟨fun i hi => ?_, fun ht => ?_, roundFn_congr t rfl, roundFn_congr t rfl, rfl, rfl⟩
  · have hsum : BitVec.ofNat 32 ((x.toNat + k.toNat) % 2 ^ 32) = x + k := by
      rw [← BitVec.toNat_add, BitVec.ofNat_toNat, BitVec.setWidth_eq]
    rw [hsum]
    exact rol32_getLsbD (by decide) hi _
  · rw [roundFn, subst_identity ht]
    rfl

/-! ### The key schedules -/

/-- Settles O28. -/
theorem keySchedulesAreReversed : Obligations.KeySchedulesAreReversed :=
  ⟨by decide, by decide, by decide⟩

/-- The key words of the 32 rounds, in order (R67, R68). -/
def roundKeys (key : KeyWords) (ks : Nat → Fin 8) : List Word := ((List.range 32).map ks).map fun j => key[j]

theorem roundKeys_ksDec (key : KeyWords) : roundKeys key ksDec = (roundKeys key ksEnc).reverse := by
  have hrev : (List.range 32).map ksDec = ((List.range 32).map ksEnc).reverse := by decide
  rw [roundKeys, hrev, List.map_reverse, roundKeys]

/-! ### The network -/

/-- A Feistel round that swaps the halves, under the key word `k`: rounds 0 to 30 of R69. -/
def feistelRound (t : SBox) (lr : Word × Word) (k : Word) : Word × Word := (roundFn t lr.1 k ^^^ lr.2, lr.1)

theorem cryptRound_of_lt (t : SBox) (key : KeyWords) (ks : Nat → Fin 8) (lr : Word × Word) {i : Nat} (hi : i < 31) :
    cryptRound t key ks lr i = feistelRound t lr key[ks i] := if_pos hi

/-- Round 31 is the same round with the swap undone (R69). -/
theorem cryptRound_last (t : SBox) (key : KeyWords) (ks : Nat → Fin 8) (lr : Word × Word) :
    cryptRound t key ks lr 31 = (feistelRound t lr key[ks 31]).swap := rfl

/-- The network is a fold of 32 equal rounds over the round keys, with one swap at the end (R69). -/
theorem cryptRounds_eq_swap (t : SBox) (key : KeyWords) (ks : Nat → Fin 8) (lr : Word × Word) :
    (List.range 32).foldl (cryptRound t key ks) lr = ((roundKeys key ks).foldl (feistelRound t) lr).swap := by
  have hfirst : (List.range 31).foldl (cryptRound t key ks) lr =
      (List.range 31).foldl (fun lr i => feistelRound t lr key[ks i]) lr :=
    List.foldl_ext _ _ _ fun lr i hi => cryptRound_of_lt t key ks lr (List.mem_range.mp hi)
  rw [roundKeys, List.foldl_map, List.foldl_map, List.range_succ, List.foldl_append, List.foldl_append, hfirst]
  rfl

/-- A round undoes itself between two swaps of the halves: the exclusive OR with the same value twice. -/
theorem feistelRound_swap_feistelRound (t : SBox) (lr : Word × Word) (k : Word) :
    feistelRound t (feistelRound t lr k).swap k = lr.swap := by
  simp [feistelRound, Prod.swap]

/-- Rounds under the keys `ks` are undone, up to the swaps, by rounds under the same keys in reverse. -/
theorem feistelRounds_reverse (t : SBox) (ks : List Word) (lr : Word × Word) :
    ks.reverse.foldl (feistelRound t) (ks.foldl (feistelRound t) lr).swap = lr.swap := by
  induction ks generalizing lr with
  | nil => rfl
  | cons k ks ih =>
    rw [List.foldl_cons, List.reverse_cons, List.foldl_append, ih]
    exact feistelRound_swap_feistelRound t lr k

/-- The network is undone by itself under a schedule that gives the round keys in reverse. -/
theorem crypt_crypt_of_reverse {key : KeyWords} {ks ks' : Nat → Fin 8}
    (h : roundKeys key ks' = (roundKeys key ks).reverse) (t : SBox) (b : Block) :
    crypt t key ks' (crypt t key ks b) = b := by
  simp only [crypt, cryptRounds_eq_swap, word0_blk, word1_blk, Prod.mk.eta, h, feistelRounds_reverse, Prod.swap_swap,
    blk_word0_word1]

/-- Settles O29: the decryption schedule is the encryption schedule in reverse, and the other way round. -/
theorem decryptInvertsEncrypt : Obligations.DecryptInvertsEncrypt := by
  refine fun t key b => ⟨crypt_crypt_of_reverse (roundKeys_ksDec key) t b, crypt_crypt_of_reverse ?_ t b⟩
  rw [roundKeys_ksDec, List.reverse_reverse]

/-- The two schedules differ in rounds 8 to 23, where they give mirrored key words, equal under a symmetric key. -/
theorem key_ksEnc_eq_key_ksDec {key : KeyWords} (h : ∀ i : Fin 8, key[i] = key[7 - i.val]) (i : Nat) :
    key[ksEnc i] = key[ksDec i] := by
  by_cases h8 : i < 8
  · have h24 : i < 24 := by omega
    simp [ksEnc, ksDec, h8, h24, Nat.mod_eq_of_lt]
  · by_cases h24 : i < 24
    · simpa [ksEnc, ksDec, h8, h24] using h ⟨i % 8, by omega⟩
    · simp [ksEnc, ksDec, h8, h24]

/-- Settles O30. -/
theorem symmetricKeyMakesCipherInvolution : Obligations.SymmetricKeyMakesCipherInvolution := by
  intro t key h b
  have hkeys : roundKeys key ksEnc = roundKeys key ksDec := by
    simp only [roundKeys, List.map_map, Function.comp_def, key_ksEnc_eq_key_ksDec h]
  have heq : ∀ b, encryptBlock t key b = decryptBlock t key b := fun b => by
    simp only [encryptBlock, decryptBlock, crypt, cryptRounds_eq_swap, hkeys]
  refine ⟨heq b, ?_⟩
  rw [heq (encryptBlock t key b)]
  exact (decryptInvertsEncrypt t key b).1

/-! ### The engine's turn -/

/-- The engine's turn out of reset is an engine step (R17, R74). -/
theorem step_engine_turn {s : State} {rest : List Turn} (hr : s.inReset = false) (ht : s.turns = .engine :: rest) :
    step s = .next (engineStep { s with turns := rest }) := by
  simp [step, State.nextTurn, ht, takeTurn, engineTurn, hr, State.popTurn]

/-- What the last round of an ENC or DEC job writes (R74). -/
theorem completeJob_cipher {s : State} (hc : s.job = .enc ∨ s.job = .dec) (temp : Word) :
    completeJob temp s =
      { s with right := temp, rnd := 0, job := .none, blkOut0 := s.left, blkOut1 := temp } := by
  rcases hc with hc | hc <;> simp [completeJob, hc]

/-- Settles O31. -/
theorem engineStepRunsOneRound : Obligations.EngineStepRunsOneRound := by
  intro s rest hr ht k temp out
  rw [step_engine_turn hr ht]
  have hlast (hj : s.job ≠ .none) (h31 : s.rnd = 31) :
      engineStep { s with turns := rest } = completeJob temp { s with turns := rest } :=
    engineStep_last (s := { s with turns := rest }) hj ((not_lt_last_iff _).mpr h31)
  refine ⟨fun hj => ?_, fun hj hlt => ?_, fun hj h31 => ?_, fun hj h31 => ?_, fun hj h31 => ?_⟩
  · rw [engineStep_without_job (by exact hj)]
  · exact congrArg _ (engineStep_round (s := { s with turns := rest }) hj hlt)
  · rw [hlast (by rcases hj with hj | hj <;> simp [hj]) h31, completeJob_cipher (by exact hj), word0_blk, word1_blk]
  · rw [hlast (by simp [hj]) h31]
    simp [completeJob, hj, out]
  · rw [hlast (by simp [hj]) h31]
    simp [completeJob, hj, out]

/-! ### A job from its start to its end -/

/-- Settles O32. -/
theorem jobComputesCrypt : Obligations.JobComputesCrypt := by
  intro s hj hr
  refine ⟨fun n hn => ⟨_, _, engineStep_iterate hj hr n (by omega)⟩, ?_⟩
  intro out t
  have hend : engineStep^[32] s = completeJob (word1 out) { s with left := word0 out } := drain_started hj hr
  rw [hend]
  cases hc : s.job with
  | none => exact absurd hc hj
  | _ => simp [completeJob, t]

/-- Before its 32nd engine step a job keeps the CORE busy and leaves BLK_OUT alone (R74). -/
theorem busy_before_last_step {s : State} (hj : s.job ≠ .none) (hr : s.rnd = 0) {n : Nat} (hn : n < 32) :
    (engineStep^[n] s).busy = true ∧ (engineStep^[n] s).blkOut0 = s.blkOut0 ∧
      (engineStep^[n] s).blkOut1 = s.blkOut1 := by
  rw [engineStep_iterate hj hr n (by omega)]
  exact ⟨(busy_eq_true_iff _).mpr hj, rfl, rfl⟩

/-! ### ENCRYPT and DECRYPT -/

theorem startCipher_without_key {s : State} (hk : s.kmask ≠ 0xFF) (j : Job) :
    startCipher j s = s.report .keyNotLoaded :=
  if_neg (mt (keyv_eq_true_iff s).mp hk)

/-- The end of an ENC or DEC job that was started while the CORE was idle: the network's value on the input block of
the start, whatever the host has put in BLK_IN since (R75, R76). -/
theorem cipherJob_result {s : State} (hj : s.job = .none) {j : Job} (hc : j = .enc ∨ j = .dec) (v w : Word) :
    let out := crypt s.sbox s.key (if j = .dec then ksDec else ksEnc) (blk s.blkIn0 s.blkIn1)
    engineStep^[32] { (s.startJob j s.blkIn0 s.blkIn1).report .ok with blkIn0 := v, blkIn1 := w } =
      { s with left := word0 out, right := word1 out, rnd := 0, blkOut0 := word0 out, blkOut1 := word1 out,
               blkIn0 := v, blkIn1 := w, err := .ok } := by
  intro out
  have hbusy : j ≠ .none := by rcases hc with rfl | rfl <;> decide
  refine (drain_started (by exact hbusy) rfl).trans ?_
  rw [completeJob_cipher (by exact hc), ← hj]
  rfl

/-- A command that starts an ENC or DEC job, written while the CORE is idle: its check, the job it starts, and the
job's result (R75, R76). -/
theorem cipherCommand {i : Instr} {j : Job} (hi : effectOf i = startCipher j) (hc : j = .enc ∨ j = .dec) {s : State}
    (hr : s.inReset = false) (hj : s.job = .none) :
    (s.kmask ≠ 0xFF → exec i s = .next { s with err := .keyNotLoaded }) ∧
    (s.kmask = 0xFF → ∃ t, exec i s = .next t ∧
      t = { s with left := s.blkIn0, right := s.blkIn1, rnd := 0, job := j, err := .ok } ∧
      (∀ n, n < 32 → (engineStep^[n] t).busy = true ∧
        (engineStep^[n] t).blkOut0 = s.blkOut0 ∧ (engineStep^[n] t).blkOut1 = s.blkOut1) ∧
      let out := crypt s.sbox s.key (if j = .dec then ksDec else ksEnc) (blk s.blkIn0 s.blkIn1)
      ∀ v w : Word, engineStep^[32] { t with blkIn0 := v, blkIn1 := w } =
        { s with left := word0 out, right := word1 out, rnd := 0, blkOut0 := word0 out, blkOut1 := word1 out,
                 blkIn0 := v, blkIn1 := w, err := .ok }) := by
  have hbusy : j ≠ .none := by rcases hc with rfl | rfl <;> decide
  rw [exec_idle hr hj, hi]
  refine ⟨fun hk => ?_, fun hk => ⟨_, rfl, ?_⟩⟩
  · rw [startCipher_without_key hk]
    rfl
  · rw [startCipher_keyed ((keyv_eq_true_iff s).mpr hk)]
    exact ⟨rfl, fun n hn => busy_before_last_step (by exact hbusy) rfl hn, cipherJob_result hj hc⟩

/-- Settles O33. -/
theorem encryptEnciphersInputBlock : Obligations.EncryptEnciphersInputBlock :=
  ⟨by decide, fun _ hr hj => cipherCommand rfl (.inl rfl) hr hj⟩

/-- Settles O34. -/
theorem decryptDeciphersInputBlock : Obligations.DecryptDeciphersInputBlock :=
  ⟨by decide, fun _ hr hj => cipherCommand rfl (.inr rfl) hr hj⟩

end Sys2Proof.Machine

/-! PROOFS of the family 41_digest.md: the hash under every interleaving (R87), where a step that accepts no word leaves
it at its stage and one that accepts the next command brings it on; then padding, the digest as an exclusive OR of
block terms, and each hash command by itself. -/

namespace Sys2Proof.Machine

/-! ### One step of a run without reset -/

/-- A register write reaches neither the reset input nor the coming turns. -/
theorem writeReg_keeps_turns {s t : State} {r : WindowReg} {v : Word} (hr : s.inReset = false)
    (h : writeReg r v s = .next t) : t.inReset = s.inReset ∧ t.turns = s.turns := by
  cases r with
  | cmd =>
    by_cases hj : s.job = .none
    · rw [writeReg, writeCmd_idle hr hj] at h
      cases h
      cases decode v with
      | ok i =>
        obtain ⟨-, hreset, -, hturns, -⟩ := effectOf_environment i s
        exact ⟨hreset, hturns⟩
      | error e => exact ⟨rfl, rfl⟩
    · rw [writeReg, writeCmd_busy hj] at h
      cases h
      exact ⟨rfl, rfl⟩
  | _ => cases h; exact ⟨rfl, rfl⟩

/-- The host's turn out of reset reaches neither the reset input nor the coming turns. -/
theorem hostTurn_keeps_turns {s t : State} (hr : s.inReset = false) (h : hostTurn s = .next t) :
    t.inReset = s.inReset ∧ t.turns = s.turns := by
  cases hq : s.hostQueue with
  | nil =>
    simp only [hostTurn, hq] at h
    cases h
    exact ⟨rfl, rfl⟩
  | cons op rest =>
    cases op with
    | read off n =>
      simp only [hostTurn, hq] at h
      rw [hostRead_next h]
      exact ⟨rfl, rfl⟩
    | write off n v =>
      simp only [hostTurn, hq] at h
      obtain ⟨-, ⟨-, rfl⟩ | ⟨-, ht⟩⟩ := hostWrite_cases (by exact hr) h
      · exact ⟨rfl, rfl⟩
      · obtain ⟨hreset, hturns⟩ := writeReg_keeps_turns (by exact hr) ht
        exact ⟨hreset, hturns⟩
    | wait =>
      simp only [hostTurn, hq, hostWait_admitted hr] at h
      cases h
      exact ⟨rfl, rfl⟩

/-- A step of a run without reset leaves the CORE out of reset, and no reset to come. -/
theorem NoReset.step {s u : State} (hnr : NoReset s) (hr : s.inReset = false) (h : step s = .next u) :
    u.inReset = false ∧ NoReset u := by
  suffices hkeep : u.inReset = false ∧ u.turns = s.turns.tail from ⟨hkeep.1, hnr.tail hkeep.2⟩
  rcases hnr.nextTurn_cases with ⟨hn, -⟩ | ⟨hn, -⟩
  · rw [Machine.step, hn, takeTurn] at h
    obtain ⟨hreset, hturns⟩ := hostTurn_keeps_turns (by exact hr) h
    exact ⟨hreset.trans hr, hturns⟩
  · rw [Machine.step, hn, takeTurn] at h
    cases h
    simp [engineTurn, hr]

/-- The state `v`, with what host accesses write by themselves and what is not the CORE's taken from `u`. -/
def withHostFieldsOf (u v : State) : State :=
  { v with
    data := u.data, blkIn0 := u.blkIn0, blkIn1 := u.blkIn1, ovr := u.ovr, hostQueue := u.hostQueue,
    turns := u.turns, reply := u.reply, freeIdx := u.freeIdx }

theorem sameInternals_withHostFieldsOf (u v : State) : SameInternals v (withHostFieldsOf u v) := rfl

theorem SameInternals.eq_withHostFieldsOf {s u : State} (h : SameInternals s u) (hr : u.inReset = s.inReset) :
    u = withHostFieldsOf u s :=
  Eq.trans h (by rw [hr]; rfl)

theorem engineStep_withHostFieldsOf (u v : State) :
    engineStep (withHostFieldsOf u v) = withHostFieldsOf u (engineStep v) :=
  (engineStep_environment v v.kmask u.data u.blkIn0 u.blkIn1 u.ovr v.err u.hostQueue u.turns u.reply u.freeIdx).trans
    (by rw [engineStep_frame]; rfl)

/-- What host accesses write by themselves, and what is not the CORE's, does not matter to the engine. -/
theorem SameInternals.drain {s u : State} (h : SameInternals s u) (hr : u.inReset = s.inReset) :
    SameInternals (drain s) (drain u) := by
  have hu : Machine.drain u = withHostFieldsOf u (Machine.drain s) :=
    (congrArg Machine.drain (h.eq_withHostFieldsOf hr)).trans
      (engineStep_iterate_commute (engineStep_withHostFieldsOf u) 32 s)
  rw [hu]
  exact sameInternals_withHostFieldsOf u (Machine.drain s)

/-! ### A hash among other accesses -/

/-- A hash in progress reads none of the fields that host accesses write by themselves (R87). -/
theorem Hashing.of_sameInternals {t : SBox} {key : KeyWords} {m : List Byte} {todo : List Instr} {s u : State}
    (h : Hashing t key m todo s) (hsu : SameInternals s u) : Hashing t key m todo u := by
  rw [hsu]
  exact ⟨{ h.keyed with }, h.stage.of_eq rfl rfl rfl rfl⟩

/-- With no command of its own to come the hash is done. -/
theorem HashStage.digest {t : SBox} {key : KeyWords} {m : List Byte} {s : State} (h : HashStage t key m s []) :
    s.phase = .done ∧ s.acc = hash t key m := by
  generalize hl : ([] : List Instr) = l at h
  cases h with
  | before => cases hl
  | absorbing => simp at hl
  | done hp ha => exact ⟨hp, ha⟩

/-- The state `s` in a run without reset in which the commands `todo` are still to be accepted: the hash is at its
stage once the job in progress has ended. Of the host's accesses nothing is said. -/
structure HashUnderway (t : SBox) (key : KeyWords) (m : List Byte) (todo : List Instr) (s : State) : Prop where
  released : s.inReset = false
  noReset : NoReset s
  hashing : Hashing t key m todo (drain s)

section

variable {t : SBox} {key : KeyWords} {m : List Byte} {todo : List Instr} {s u : State}
  (h : HashUnderway t key m todo s) (hu : step s = .next u)
include h hu

/-- A step that accepts no word leaves the hash at its stage: whatever else the host does, and an engine step. -/
theorem HashUnderway.unaccepted (hw : acceptedWord s = none) : HashUnderway t key m todo u := by
  obtain ⟨hr, hnr⟩ := h.noReset.step h.released hu
  have hno (w : Word) : ¬ AcceptsWord s w := by simp [AcceptsWord, hw]
  refine ⟨hr, hnr, ?_⟩
  rcases step_internals_cases hu with ⟨hsame, -⟩ | ⟨_, _, ⟨w, -, hacc⟩, -⟩ | ⟨w, _, hacc, -⟩ | ⟨-, -, -, rfl⟩ |
    ⟨hreset, -⟩
  · exact h.hashing.of_sameInternals (hsame.drain (hr.trans h.released.symm))
  · exact absurd hacc (hno w)
  · exact absurd hacc (hno w)
  · rw [drain_engineStep]
    exact h.hashing.of_sameInternals (SameInternals.drain (u := s.popTurn) rfl rfl)
  · rcases h.noReset.nextTurn_cases with ⟨hn, -⟩ | ⟨hn, -⟩ <;> simp [ResetStep, hn] at hreset

/-- The step that accepts the next command brings the hash on. -/
theorem HashUnderway.accepted {w : Word} {i : Instr} {rest : List Instr} (hw : acceptedWord s = some w)
    (hd : decode w = .ok i) (htodo : todo = i :: rest) : HashUnderway t key m rest u := by
  subst htodo
  obtain ⟨hr, hnr⟩ := h.noReset.step h.released hu
  obtain ⟨hn, hr', hj, queue, hq⟩ := (acceptsWord_iff s w).mp hw
  rw [step_accepted hn hr' hj hq, hd] at hu
  obtain rfl := Host.Outcome.next.inj hu
  have hidle : Hashing t key m (i :: rest) s := drain_idle hj ▸ h.hashing
  obtain ⟨-, -, hnext⟩ := (hidle.of_sameCore (u := { s with
    turns := s.turns.tail, hostQueue := queue, reply := .written }) rfl).accept
  exact ⟨hr, hnr, hnext⟩

/-- Every step uses up the command it accepts, if it accepts one. -/
theorem HashUnderway.step {words : List Word}
    (hwords : ((acceptedWord s).toList ++ words).map decode = todo.map Except.ok) :
    ∃ todo', HashUnderway t key m todo' u ∧ words.map decode = todo'.map Except.ok := by
  cases hw : acceptedWord s with
  | none => exact ⟨todo, h.unaccepted hu hw, by simpa [hw] using hwords⟩
  | some w =>
    cases htodo : todo with
    | nil => simp [hw, htodo] at hwords
    | cons i rest =>
      obtain ⟨hd, hrest⟩ : decode w = .ok i ∧ words.map decode = rest.map Except.ok := by
        simpa [hw, htodo] using hwords
      exact ⟨rest, h.accepted hu hw hd htodo, hrest⟩

end

/-- A run that goes on goes on with its first step. -/
theorem core_run_succ_next {n : Nat} {s t : State} (h : core.run (n + 1) s = .next t) :
    ∃ u, step s = .next u ∧ core.run n u = .next t := by
  cases hs : step s with
  | next u => exact ⟨u, rfl, core_run_succ hs ▸ h⟩
  | fault r =>
    have hs' : core.step s = .fault r := hs
    simp [Host.Core.run, hs'] at h
  | refused r =>
    have hs' : core.step s = .refused r := hs
    simp [Host.Core.run, hs'] at h

/-- At the end of a run that accepts exactly the commands `todo`, none of them is still to come. -/
theorem HashUnderway.run {t : SBox} {key : KeyWords} {m : List Byte} {v : State} (n : Nat) :
    ∀ {todo : List Instr} {s : State}, HashUnderway t key m todo s → core.run n s = .next v →
      (acceptedWords n s).map decode = todo.map Except.ok → HashUnderway t key m [] v := by
  induction n with
  | zero =>
    intro todo s h hrun hwords
    obtain rfl : s = v := Host.Outcome.next.inj hrun
    obtain rfl : todo = [] := by simpa [acceptedWords] using hwords
    exact h
  | succ n ih =>
    intro todo s h hrun hwords
    obtain ⟨u, hu, hrun'⟩ := core_run_succ_next hrun
    obtain ⟨todo', h', hwords'⟩ := h.step hu (words := acceptedWords n u) (by simpa [acceptedWords, hu] using hwords)
    exact ih h' hrun' hwords'

/-- Settles O41: the invariant is `HashUnderway`, by induction on the number of steps. -/
theorem acceptedHashComputesDigest : Obligations.AcceptedHashComputesDigest := by
  intro s v n m cmds hr hj hk hnr hrun hwords hown hjv
  have hstart : HashUnderway s.sbox s.key m cmds s := by
    refine ⟨hr, hnr, ?_⟩
    rw [drain_idle hj]
    exact ⟨⟨hj, hk, rfl, rfl⟩, by rw [hown]; exact .before⟩
  have hend := (hstart.run n hrun hwords).hashing
  rw [drain_idle hjv] at hend
  obtain ⟨hphase, hacc⟩ := hend.stage.digest
  exact ⟨hphase, hacc, hend.keyed.key⟩

/-! ### Padding -/

theorem pad_length (m : List Byte) : (pad m).length = m.length + padLength m := by simp [pad]

theorem padLength_bounds (m : List Byte) : 1 ≤ padLength m ∧ padLength m ≤ 8 := by
  unfold padLength
  omega

/-- Settles O35. -/
theorem paddingGivesWholeBlocks : Obligations.PaddingGivesWholeBlocks := by
  refine ⟨fun m => ?_, by decide, by decide, by decide⟩
  obtain ⟨hpos, hle⟩ := padLength_bounds m
  have hlen := pad_length m
  refine ⟨?_, by omega, padLength m, hpos, hle, hlen, by simp [pad], ?_⟩
  · rw [hlen, padLength]
    omega
  · intro b hb
    rw [pad, List.drop_left] at hb
    exact List.eq_of_mem_replicate hb

/-- Whole blocks in front of a message do not change its padding (R78). -/
theorem pad_append {a : List Byte} (ha : a.length % 8 = 0) (b : List Byte) : pad (a ++ b) = a ++ pad b := by
  have hp : padLength (a ++ b) = padLength b := by
    simp only [padLength, List.length_append]
    omega
  rw [pad, hp, pad, List.append_assoc]

/-! ### The digest as an exclusive OR -/

theorem xorBlock_left_comm (a b c : Block) : xorBlock a (xorBlock b c) = xorBlock b (xorBlock a c) := by
  rw [← xorBlock_assoc, xorBlock_comm a b, xorBlock_assoc]

/-- What one block adds to the digest (R82). -/
def blockTerm (t : SBox) (key : KeyWords) (b : Block) : Block := xorBlock (encryptBlock t key b) b

theorem fold_eq_xorBlock_blockTerm (t : SBox) (key : KeyWords) (acc b : Block) :
    fold acc (encryptBlock t key b) b = xorBlock acc (blockTerm t key b) :=
  fold_eq_xorBlock acc _ b

theorem foldBlocks_eq_foldl_blockTerm (t : SBox) (key : KeyWords) (p : List Byte) (n : Nat) :
    foldBlocks t key p n =
      ((List.range n).map fun b => blockTerm t key (blockAt p b)).foldl xorBlock (repBlock 0) := by
  simp only [foldBlocks, List.foldl_map, fold_eq_xorBlock_blockTerm]

/-- Whole blocks in front of a byte sequence move its blocks. -/
theorem blockAt_append_right {a : List Byte} (ha : a.length % 8 = 0) (x : List Byte) (b : Nat) :
    blockAt (a ++ x) (a.length / 8 + b) = blockAt x b := by
  ext k hk : 1
  rw [blockAt_getElem, blockAt_getElem, List.getD_append_right _ _ _ _ (by omega)]
  congr 1
  omega

/-- The exclusive OR of the terms of all whole blocks of a byte sequence. -/
def blocksTerm (t : SBox) (key : KeyWords) (p : List Byte) : Block := foldBlocks t key p (p.length / 8)

theorem foldBlocks_append_right (t : SBox) (key : KeyWords) {a : List Byte} (ha : a.length % 8 = 0) (x : List Byte)
    (n : Nat) :
    foldBlocks t key (a ++ x) (a.length / 8 + n) = xorBlock (blocksTerm t key a) (foldBlocks t key x n) := by
  induction n with
  | zero =>
    rw [Nat.add_zero, foldBlocks_append t key x (by omega)]
    exact (xorBlock_zero _).symm
  | succ n ih =>
    rw [← Nat.add_assoc, foldBlocks_succ, ih, blockAt_append_right ha, foldBlocks_succ, fold_eq_xorBlock_blockTerm,
      fold_eq_xorBlock_blockTerm, xorBlock_assoc]

/-- Whole blocks in front of a message add their terms to its digest (R82). -/
theorem hash_append (t : SBox) (key : KeyWords) {a : List Byte} (ha : a.length % 8 = 0) (b : List Byte) :
    hash t key (a ++ b) = xorBlock (blocksTerm t key a) (hash t key b) := by
  have hlen : (pad (a ++ b)).length / 8 = a.length / 8 + (pad b).length / 8 := by
    rw [pad_append ha, List.length_append]
    omega
  calc hash t key (a ++ b)
      = foldBlocks t key (pad (a ++ b)) ((pad (a ++ b)).length / 8) := rfl
    _ = foldBlocks t key (a ++ pad b) (a.length / 8 + (pad b).length / 8) := by rw [hlen, pad_append ha]
    _ = xorBlock (blocksTerm t key a) (hash t key b) := foldBlocks_append_right t key ha (pad b) _

/-- A message of whole blocks has the terms of its blocks and the digest of nothing (R82). -/
theorem hash_of_whole_blocks (t : SBox) (key : KeyWords) {a : List Byte} (ha : a.length % 8 = 0) :
    hash t key a = xorBlock (blocksTerm t key a) (hash t key []) := by
  simpa using hash_append t key ha []

/-- The empty message is padded to one block of eight bytes 8 (R83). -/
theorem hash_nil (t : SBox) (key : KeyWords) : hash t key [] = blockTerm t key (repBlock 8) := by
  have hblock : blockAt (pad []) 0 = repBlock 8 := by decide
  rw [hash_eq_fold]
  change fold (repBlock 0) (encryptBlock t key (blockAt (pad []) 0)) (blockAt (pad []) 0) = _
  rw [hblock, fold_eq_xorBlock_blockTerm, zero_xorBlock]

/-- Settles O36: each law is `hash_append` and the exclusive OR being commutative, associative and its own inverse. -/
theorem digestIsXorOfBlockTerms : Obligations.DigestIsXorOfBlockTerms := by
  intro t key term
  refine ⟨fun m => foldBlocks_eq_foldl_blockTerm t key (pad m) _, hash_nil t key, fun a b ha => ?_,
    fun p a q b c hp hq ha hb => ?_, fun a b ha => ?_⟩
  · rw [hash_append t key ha b, hash_of_whole_blocks t key ha, xorBlock_assoc (blocksTerm t key a), xorBlock_self,
      xorBlock_zero]
  · have hwhole (x y : List Byte) (hx : x.length = 8) (hy : y.length = 8) :
        hash t key (p ++ x ++ q ++ y ++ c) = xorBlock (blocksTerm t key p) (xorBlock (blocksTerm t key x)
          (xorBlock (blocksTerm t key q) (xorBlock (blocksTerm t key y) (hash t key c)))) := by
      simp only [List.append_assoc]
      rw [hash_append t key hp, hash_append t key (by omega), hash_append t key hq, hash_append t key (by omega)]
    rw [hwhole a b ha hb, hwhole b a hb ha, xorBlock_left_comm (blocksTerm t key q) (blocksTerm t key b),
      xorBlock_left_comm (blocksTerm t key a) (blocksTerm t key b),
      xorBlock_left_comm (blocksTerm t key q) (blocksTerm t key a)]
  · have ha8 : a.length % 8 = 0 := by omega
    rw [List.append_assoc, hash_append t key ha8, hash_append t key ha8, ← xorBlock_assoc, xorBlock_self,
      zero_xorBlock]

/-! ### The hash commands -/

/-- Settles O37. -/
theorem emptyMessageDigest : Obligations.EmptyMessageDigest := by
  refine ⟨hash_nil, fun s hr hj hk => ?_⟩
  have hkeyed : Keyed s.sbox s.key s := ⟨hj, (keyv_eq_true_iff s).mpr hk, rfl, rfl⟩
  have hidle : (startHash s).job = .none := by
    rw [startHash_keyed hkeyed.keyv]
    exact hj
  obtain ⟨-, habsorbed⟩ := Absorbed.init hkeyed
  have hkeyed' : Keyed s.sbox s.key (drain (startHash s)) := hkeyed.accept (i := .hashInit) (by simp)
  rw [drain_idle hidle] at habsorbed hkeyed'
  obtain ⟨-, hphase, hacc⟩ := habsorbed.final hkeyed'
  refine ⟨finishHash (startHash s), ?_, hacc, hphase, drain_job _⟩
  obtain ⟨-, hr', -⟩ := effectOf_environment .hashInit s
  simp only [execAll, exec_idle hr hj, exec_idle (s := effectOf .hashInit s) (hr'.trans hr) hidle]
  rfl

/-- Without a key HASH_INIT only reports (R84). -/
theorem startHash_without_key {s : State} (hk : s.kmask ≠ 0xFF) : startHash s = s.report .keyNotLoaded :=
  if_neg (mt (keyv_eq_true_iff s).mp hk)

/-- Settles O38. -/
theorem hashInitStartsHash : Obligations.HashInitStartsHash := by
  refine ⟨by decide, fun s hr hj => ?_⟩
  rw [exec_idle hr hj, effectOf]
  refine ⟨fun hk => ?_, fun hk => ?_⟩
  · rw [startHash_without_key hk]
    rfl
  · have hzero : word0 (repBlock 0) = 0 ∧ word1 (repBlock 0) = 0 := by decide
    obtain ⟨hdig0, hdig1⟩ := hzero
    rw [startHash_keyed ((keyv_eq_true_iff s).mpr hk)]
    exact ⟨_, rfl, rfl, (busy_eq_false_iff _).mpr hj, hdig0, hdig1⟩

/-- Outside ABSORB HASH_BYTE only reports (R85), and so does HASH_FINAL (R86). -/
theorem absorbByte_inactive {s : State} (hp : s.phase ≠ .absorb) (b : Byte) :
    absorbByte b s = s.report .hashNotActive := if_neg hp

theorem finishHash_inactive {s : State} (hp : s.phase ≠ .absorb) : finishHash s = s.report .hashNotActive := if_neg hp

/-- Until its 32nd engine step a job has every command dropped (R98). -/
theorem exec_before_last_step {s : State} (hj : s.job ≠ .none) (hr : s.inReset = false) (hrnd : s.rnd = 0) {n : Nat}
    (hn : n < 32) (i : Instr) : exec i (engineStep^[n] s) = .next { engineStep^[n] s with ovr := true } := by
  rw [engineStep_iterate hj hrnd n (by omega)]
  exact exec_busy hr hj

/-- The end of a hash job: the network's value on the block the job starts with is folded into ACC (R74). -/
theorem hashJob_result {s : State} (hj : s.job = .hblk ∨ s.job = .hfin) (hrnd : s.rnd = 0)
    (hblock : blk s.left s.right = s.mblk) :
    (drain s).acc = fold s.acc (encryptBlock s.sbox s.key s.mblk) s.mblk := by
  rw [drain_started (by rcases hj with hj | hj <;> simp [hj]) hrnd]
  rcases hj with hj | hj <;> simp [completeJob, jobResult, encryptBlock, hj, hblock]

/-- Settles O39. -/
theorem hashByteAbsorbsByte : Obligations.HashByteAbsorbsByte := by
  refine fun b => ⟨rfl, fun s hr hj => ?_⟩
  rw [exec_idle hr hj, effectOf]
  refine ⟨fun hp => ?_, fun hp hc => ?_, fun hp h7 => ?_⟩
  · rw [absorbByte_inactive hp]
    rfl
  · rw [absorbByte_buffers hp hc]
    rfl
  · intro b2 t
    have hstart : absorbByte b s = t := by
      have hb2 : s.bufWith b = b2 := by simp [State.bufWith, h7, b2]
      rw [absorbByte_starts hp (by simp [h7]), hb2]
      rfl
    exact ⟨by rw [hstart], hashJob_result (s := t) (.inl rfl) rfl (blk_word0_word1 b2), drain_job t,
      fun n hn c => exec_before_last_step (s := t) (by simp [t]) hr rfl hn (.hashByte c)⟩

/-- HASH_FINAL's block, as the bytes R86 lists. -/
theorem paddedBlock_toList (s : State) :
    s.paddedBlock.toList = s.buf.toList.take s.bufcnt.toNat ++
      List.replicate (8 - s.bufcnt.toNat) (BitVec.ofNat 8 (8 - s.bufcnt.toNat)) := by
  have hcnt := s.bufcnt.isLt
  refine List.ext_getElem (by simp; omega) fun k hk _ => ?_
  have hk8 : k < 8 := by simpa using hk
  by_cases hlt : k < s.bufcnt.toNat
  · simp [State.paddedBlock, hlt, hk8]
  · simp [State.paddedBlock, List.getElem_append, hlt]

/-- Settles O40. -/
theorem hashFinalPadsAndFinishes : Obligations.HashFinalPadsAndFinishes := by
  refine ⟨by decide, fun s hr hj => ?_⟩
  rw [exec_idle hr hj, effectOf]
  refine ⟨fun hp => ?_, fun hp m hm => ?_⟩
  · rw [finishHash_inactive hp]
    rfl
  · obtain rfl : m = s.paddedBlock := Vector.toList_inj.mp (hm.trans (paddedBlock_toList s).symm)
    intro t
    have hbusy : t.job ≠ .none := by simp [t]
    refine ⟨by rw [finishHash_starts hp]; rfl, fun n hn => ?_,
      hashJob_result (s := t) (.inr rfl) rfl (blk_word0_word1 _), ?_, drain_job t⟩
    · obtain ⟨hbusy', -⟩ := busy_before_last_step hbusy rfl hn
      refine ⟨hbusy', ?_⟩
      rw [engineStep_iterate hbusy rfl n (by omega)]
      exact hp
    · exact congrArg State.phase (drain_started hbusy rfl)

end Sys2Proof.Machine

/-! PROOFS of the family 42_parameter_setup.md: hexadecimal digits and the nibbles they are put in, each key command by
itself, ParseKey, then the key loader, which holds after each character what ParseKey reads of the characters so far. -/

namespace Sys2Proof.Machine

/-! ### Hexadecimal digits and nibbles -/

/-- Settles O43: the digits by evaluation, any other byte because it fails the three range checks. -/
theorem hexvalDecodesDigits : Obligations.HexvalDecodesDigits := by
  refine ⟨by decide, by decide, fun c hdigit hupper hlower => ?_⟩
  rw [hexval, if_neg hdigit, if_neg hupper, if_neg hlower]

/-- A placed digit is a lane of a table with that one entry: it fills its own nibble and no other. -/
theorem nibbleOf_digitAt (v : Nibble) {i j : Nat} (hi : i < 8) (hj : j < 8) :
    nibbleOf (digitAt v i) j = if i = j then v else 0 := by
  have hlane := nibbleOf_lane (Vector.replicate 8 (Vector.replicate 16 v)) 0 ⟨i, hi⟩ ⟨j, hj⟩
  simpa [lane, digitAt] using hlane

theorem nibbleOf_and_not (x y : Word) {j : Nat} (hj : j < 8) :
    nibbleOf (x &&& ~~~y) j = nibbleOf x j &&& ~~~nibbleOf y j := by
  ext k hk
  have hlt : 4 * j + k < 32 := by omega
  simp [nibbleOf, hlt]

/-- Putting a digit replaces one nibble and leaves the others (R94). -/
theorem nibbleOf_putDigit (w : Word) (v : Nibble) {i j : Nat} (hi : i < 8) (hj : j < 8) :
    nibbleOf (putDigit w v i) j = if i = j then v else nibbleOf w j := by
  have hmask : (0xF : Word) <<< (4 * i) = digitAt 0xF i := rfl
  rw [putDigit, hmask, nibbleOf_or, nibbleOf_and_not _ _ hj, nibbleOf_digitAt _ hi hj, nibbleOf_digitAt _ hi hj]
  split
  · simp
  · exact BitVec.or_zero.trans BitVec.and_allOnes

@[simp] theorem nibbleOf_zero (j : Nat) : nibbleOf 0#32 j = 0#4 := BitVec.extractLsb'_zero

/-- Digit `j` of a group is nibble `7 - j` of its word (R91). -/
theorem nibbleOf_groupWord (digits : List Nibble) (i : Nat) (j : Fin 8) :
    nibbleOf (groupWord digits i) (7 - j.val) = digits.getD (8 * i + j.val) 0 := by
  have hrange : List.range 8 = [0, 1, 2, 3, 4, 5, 6, 7] := rfl
  simp only [groupWord, hrange, List.foldl, nibbleOf_or]
  fin_cases j <;> simp [nibbleOf_digitAt]

/-! ### The lock, KEY_CLEAR, KEY_CHAR, KEY_COMMIT and KEY_WORD -/

section KeyCommands

variable {i : Instr} {effect : State → State} {s : State} (hi : effectOf i s = unlessLocked effect s)
  (hr : s.inReset = false) (hj : s.job = .none)
include hi hr hj

/-- In ABSORB a key command only reports (R109). -/
theorem exec_locked (hp : s.phase = .absorb) : exec i s = .next { s with err := .keyLocked } := by
  rw [exec_idle hr hj, hi, unlessLocked, if_pos hp]
  rfl

theorem exec_unlocked (hp : s.phase ≠ .absorb) : exec i s = .next (effect s) := by
  rw [exec_idle hr hj, hi, unlessLocked, if_neg hp]

end KeyCommands

/-- Settles O46: with KMASK cleared, ENCRYPT's check fails. -/
theorem keyClearDiscardsKey : Obligations.KeyClearDiscardsKey := by
  refine ⟨by decide, fun s hr hj => ⟨exec_locked rfl hr hj, fun hp => ?_⟩⟩
  refine ⟨clearKey s, exec_unlocked rfl hr hj hp, rfl, rfl, ?_⟩
  obtain ⟨hnoKey, -⟩ := cipherCommand (i := .encrypt) (s := clearKey s) rfl (.inl rfl) hr hj
  exact hnoKey (by decide : (0 : BitVec 8) ≠ 0xFF)

/-- KSTAGE after the character `c`: with its digit, if it is one (R94). -/
def State.stageChar (c : Byte) (s : State) : KeyWords := (hexval c).elim s.kstage fun v => s.stageDigit v

/-- Both arms of KEY_CHAR at once: every character is counted, and one that is no digit sets KBAD (R94). -/
theorem receiveChar_eq (c : Byte) (s : State) :
    receiveChar c s =
      { s with
        kstage := s.stageChar c, kcnt := s.nextKcnt, kbad := s.kbad || (hexval c).isNone, err := .ok } := by
  unfold receiveChar State.stageChar
  cases hexval c <;> simp [State.report]

/-- Digit `v`, received as character number KCNT, takes the nibble that number names, and leaves every other; a number
above 63 names none (R94). -/
theorem nibbleOf_stageDigit (s : State) (v : Nibble) (i p : Fin 8) :
    nibbleOf (s.stageDigit v)[i] p =
      if 8 * i.val + (7 - p.val) = s.kcnt.toNat then v else nibbleOf s.kstage[i] p := by
  unfold State.stageDigit
  split
  case isTrue hlt =>
    have hpos : 7 - s.kcnt.toNat % 8 < 8 := by omega
    rw [Fin.getElem_fin, Vector.getElem_set]
    by_cases hword : s.kcnt.toNat / 8 = i.val
    · have hnibble : 7 - s.kcnt.toNat % 8 = p.val ↔ 8 * i.val + (7 - p.val) = s.kcnt.toNat := by omega
      simp [hword, nibbleOf_putDigit _ _ hpos p.isLt, hnibble]
    · have hother : ¬ 8 * i.val + (7 - p.val) = s.kcnt.toNat := by omega
      simp [hword, hother]
  case isFalse hfull =>
    have hother : ¬ 8 * i.val + (7 - p.val) = s.kcnt.toNat := by omega
    rw [if_neg hother]

theorem nibbleOf_stageChar (c : Byte) (s : State) (i p : Fin 8) :
    nibbleOf (s.stageChar c)[i] p =
      if 8 * i.val + (7 - p.val) = s.kcnt.toNat then (hexval c).getD (nibbleOf s.kstage[i] p)
      else nibbleOf s.kstage[i] p := by
  unfold State.stageChar
  cases hexval c with
  | none => exact (ite_self _).symm
  | some v => exact nibbleOf_stageDigit s v i p

/-- Settles O47, with `stageChar` as the staging words afterwards. -/
theorem keyCharStagesDigit : Obligations.KeyCharStagesDigit := by
  refine fun c => ⟨rfl, fun s hr hj => ⟨exec_locked rfl hr hj, fun hp => ?_⟩⟩
  refine ⟨receiveChar c s, s.stageChar c, exec_unlocked rfl hr hj hp, ?_⟩
  rw [receiveChar_eq]
  refine ⟨rfl, nextKcnt_toNat s, fun v hv hlt i p => ?_, fun h => ?_⟩
  · rw [State.stageChar, hv]
    exact (nibbleOf_stageDigit s v i p).trans (if_congr (by omega) rfl rfl)
  · unfold State.stageChar
    cases hv : hexval c with
    | none => rfl
    | some v => exact dif_neg (not_lt.mpr (h.resolve_left (by simp [hv])))

/-- Settles O48, by the branches of KEY_COMMIT's pseudocode. -/
theorem keyCommitValidatesAndLoads : Obligations.KeyCommitValidatesAndLoads := by
  refine ⟨by decide, fun s hr hj => ⟨exec_locked rfl hr hj, fun hp hcnt => ?_, fun hp hcnt hbad => ?_,
    fun hp hcnt hbad => ?_⟩⟩
  all_goals rw [exec_unlocked rfl hr hj hp, commitKey]
  · rw [if_pos hcnt]
    rfl
  · rw [if_neg (not_not_intro hcnt), if_pos hbad]
    rfl
  · rw [if_neg (not_not_intro hcnt), if_neg (by simp [hbad])]
    rfl

theorem kmask_full_iff (m : BitVec 8) : m = 0xFF ↔ ∀ i, i < 8 → m.getLsbD i = true := by
  have hones : ∀ i, i < 8 → (0xFF : BitVec 8).getLsbD i = true := by decide
  refine ⟨fun h i hi => ?_, fun h => BitVec.eq_of_getLsbD_eq fun i hi => ?_⟩
  · rw [h, hones i hi]
  · rw [h i hi, hones i hi]

/-- `KMASK | (1 << idx)`, bit by bit (R96). -/
theorem getLsbD_or_one_shiftLeft (m : BitVec 8) {idx : Nat} (h : idx < 8) (i : Nat) :
    (m ||| (1 : BitVec 8) <<< idx).getLsbD i = (m.getLsbD i || decide (i = idx)) := by
  have hbit : (decide (i < 8) && !decide (i < idx) && decide (i - idx = 0)) = decide (i = idx) :=
    Bool.eq_iff_iff.mpr (by simp; omega)
  simp [hbit]

/-- Settles O49: KMASK bit by bit; an index above 7 is case (d) of R62. -/
theorem keyWordLoadsData : Obligations.KeyWordLoadsData := by
  refine fun idx => ⟨rfl, fun s hr hj => ⟨fun h => ?_, fun h => ?_⟩⟩
  · have hi : effectOf (.keyWord idx) s = unlessLocked (loadWord idx h) s := dif_pos h
    have hbits := getLsbD_or_one_shiftLeft s.kmask h
    refine ⟨exec_locked hi hr hj, fun hp => ⟨_, exec_unlocked hi hr hj hp, rfl, hbits, ?_⟩⟩
    rw [keyv_eq_true_iff, kmask_full_iff]
    refine forall₂_congr fun i _ => ?_
    rw [loadWord, State.report_kmask, hbits, Bool.or_eq_true, decide_eq_true_iff, or_comm]
  · obtain ⟨hillegal, -⟩ := illegalWordOnlyReportsError (encode (.keyWord idx))
    refine hillegal.mpr (.inr (.inr (.inr ⟨opcField_encode _, ?_⟩)))
    rw [imm8Field_encode]
    exact mt (toNat_lt_eight_iff idx).mpr (not_lt.mpr h)

/-! ### ParseKey -/

/-- Decoding a string reads each character as its digit. -/
theorem digits_of_mapM_hexval {str : List Byte} {digits : List Nibble} (h : str.mapM hexval = some digits) :
    digits.length = str.length ∧ ∀ k : Nat, (str[k]?).bind hexval = digits[k]? := by
  induction str generalizing digits with
  | nil =>
    obtain rfl : [] = digits := Option.some.inj h
    exact ⟨rfl, fun _ => rfl⟩
  | cons c str ih =>
    simp only [List.mapM_cons, Option.bind_eq_bind, Option.bind_eq_some_iff] at h
    obtain ⟨v, hv, rest, hrest, hdigits⟩ := h
    obtain rfl : v :: rest = digits := Option.some.inj hdigits
    obtain ⟨hlen, hread⟩ := ih hrest
    refine ⟨congrArg (· + 1) hlen, fun k => ?_⟩
    cases k with
    | zero => exact hv
    | succ k => exact hread k

theorem mapM_hexval_eq_none_iff (str : List Byte) : str.mapM hexval = none ↔ ∃ c ∈ str, hexval c = none := by
  induction str with
  | nil => simp
  | cons c str ih =>
    cases hc : hexval c with
    | none => simp [List.mapM_cons, hc]
    | some v =>
      have htail : (c :: str).mapM hexval = none ↔ str.mapM hexval = none := by
        rw [List.mapM_cons, hc]
        cases str.mapM hexval <;> simp
      rw [htail, ih]
      simp [hc]

/-- The three answers of ParseKey and when it gives them (R91). -/
theorem parseKey_cases (str : List Byte) :
    (str.length ≠ 64 ∧ parseKey str = .error .invalidKeyLength) ∨
    (str.length = 64 ∧ (∃ c ∈ str, hexval c = none) ∧ parseKey str = .error .invalidKeyEncoding) ∨
    (str.length = 64 ∧ (¬ ∃ c ∈ str, hexval c = none) ∧ ∃ digits : List Nibble, str.mapM hexval = some digits ∧
      parseKey str = .ok (Vector.ofFn fun i => groupWord digits i)) := by
  unfold parseKey
  by_cases hlen : str.length = 64
  · right
    rw [if_neg (not_not_intro hlen), ← mapM_hexval_eq_none_iff]
    cases hd : str.mapM hexval with
    | none => exact .inl ⟨hlen, rfl, rfl⟩
    | some digits => exact .inr ⟨hlen, Option.some_ne_none _, digits, rfl, rfl⟩
  · exact .inl ⟨hlen, if_pos hlen⟩

/-- Settles O45, by the three answers of ParseKey. -/
theorem parseKeyReadsGroups : Obligations.ParseKeyReadsGroups := by
  intro str
  obtain ⟨hlen, hp⟩ | ⟨hlen, hbad, hp⟩ | ⟨hlen, hgood, digits, hdigits, hp⟩ := parseKey_cases str
  · simp [hp, hlen]
  · simp [hp, hlen, hbad]
  · refine ⟨by simp [hp, hlen], by simpa [hp, hlen] using hgood, fun key hkey i j => ?_⟩
    obtain rfl : (Vector.ofFn fun i => groupWord digits i) = key := Except.ok.inj (hp.symm.trans hkey)
    obtain ⟨hcount, hread⟩ := digits_of_mapM_hexval hdigits
    have hk : 8 * i.val + j.val < digits.length := by omega
    rw [hread, Fin.getElem_fin, Vector.getElem_ofFn, nibbleOf_groupWord]
    simp [hk]

/-! ### The key loader -/

/-- Since it was last emptied the loader has received the characters `str`: what it then holds (R22, R23, R24, R94), and
that a further key command is accepted and not locked. -/
structure Loaded (str : List Byte) (s : State) : Prop where
  released : s.inReset = false
  idle : s.job = .none
  unlocked : s.phase ≠ .absorb
  /-- Characters after the 65th are not counted. -/
  count : s.kcnt.toNat = min str.length 65
  bad : s.kbad = true ↔ ∃ c ∈ str, hexval c = none
  /-- Each digit among the first 64 characters stands where ParseKey reads it. -/
  staged : ∀ (i j : Fin 8) (v : Nibble), (str[8 * i.val + j.val]?).bind hexval = some v →
    nibbleOf s.kstage[i] (7 - j.val) = v

theorem Loaded.empty {s : State} (hr : s.inReset = false) (hj : s.job = .none) (hp : s.phase ≠ .absorb) :
    ∃ t, exec .keyClear s = .next t ∧ Loaded [] t := by
  obtain ⟨-, hclear⟩ := keyClearDiscardsKey
  obtain ⟨-, hclear⟩ := hclear s hr hj
  obtain ⟨t, hexec, rfl, -⟩ := hclear hp
  exact ⟨_, hexec, hr, hj, hp, rfl, by simp, by simp⟩

/-- A KEY_CHAR leaves the digits staged before and stages its own at the next place. -/
theorem Loaded.char {str : List Byte} {s : State} (h : Loaded str s) (c : Byte) :
    ∃ t, exec (.keyChar c) s = .next t ∧ Loaded (str ++ [c]) t := by
  have hn := h.count
  refine ⟨_, exec_unlocked rfl h.released h.idle h.unlocked, ?_⟩
  rw [receiveChar_eq]
  refine ⟨h.released, h.idle, h.unlocked, ?count, ?bad, fun i j v hv => ?staged⟩
  case count =>
    rw [nextKcnt_toNat, hn, List.length_append, List.length_singleton]
    omega
  case bad => simp [h.bad, or_and_right, exists_or]
  case staged =>
    have hplace : 8 * i.val + (7 - (7 - j.val)) = s.kcnt.toNat ↔ 8 * i.val + j.val = str.length := by omega
    refine (nibbleOf_stageChar c s i ⟨7 - j.val, by omega⟩).trans ?_
    by_cases hk : 8 * i.val + j.val = str.length
    · have hc : hexval c = some v := by simpa [hk] using hv
      rw [if_pos (hplace.mpr hk), hc]
      rfl
    · rw [if_neg (mt hplace.mp hk)]
      refine h.staged i j v ?_
      obtain hlt | hgt := Nat.lt_or_gt_of_ne hk
      · rwa [List.getElem?_append_left hlt] at hv
      · rw [List.getElem?_eq_none (by simp; omega)] at hv
        cases hv

/-- KEY_COMMIT after the characters `str` gives what ParseKey answers for `str`. -/
theorem Loaded.commit {str : List Byte} {s : State} (h : Loaded str s) :
    ∃ t, exec .keyCommit s = .next t ∧
      (∀ key, parseKey str = .ok key → t.err = .ok ∧ t.keyv = true ∧ t.key = key) ∧
      (parseKey str = .error .invalidKeyLength → t.err = .invalidKeyLength ∧ t.keyv = false) ∧
      (parseKey str = .error .invalidKeyEncoding → t.err = .invalidKeyEncoding ∧ t.keyv = false) := by
  obtain ⟨-, hcommit⟩ := keyCommitValidatesAndLoads
  obtain ⟨-, hlength, hencoding, hload⟩ := hcommit s h.released h.idle
  have hcount : s.kcnt = 64 ↔ str.length = 64 := by
    have hn := h.count
    rw [BitVec.toNat_eq, hn]
    change _ = 64 ↔ _
    omega
  obtain ⟨-, -, hread⟩ := parseKeyReadsGroups str
  obtain ⟨hlen, hp⟩ | ⟨hlen, hbad, hp⟩ | ⟨hlen, hgood, digits, -, hp⟩ := parseKey_cases str
  · exact ⟨_, hlength h.unlocked (mt hcount.mp hlen), by simp [hp, State.keyv]⟩
  · exact ⟨_, hencoding h.unlocked (hcount.mpr hlen) (h.bad.mpr hbad), by simp [hp, State.keyv]⟩
  · refine ⟨_, hload h.unlocked (hcount.mpr hlen) (Bool.eq_false_iff.mpr (mt h.bad.mp hgood)), fun key hkey => ?_,
      by simp [hp], by simp [hp]⟩
    refine ⟨rfl, rfl, Vector.ext fun i hi => word_eq_of_nibbles fun p => ?_⟩
    have hread := h.staged ⟨i, hi⟩ ⟨7 - p.val, by omega⟩ _ (hread key hkey ⟨i, hi⟩ ⟨7 - p.val, by omega⟩)
    have hback : 7 - (7 - p.val) = p.val := by omega
    simpa [hback] using hread

/-- The KEY_CHARs for a string, one after another, bring it into the loader. -/
theorem Loaded.chars {str : List Byte} {s : State} (h : Loaded str s) (more : List Byte) (is : List Instr) :
    ∃ t, execAll (more.map .keyChar ++ is) s = execAll is t ∧ Loaded (str ++ more) t := by
  induction more generalizing str s with
  | nil => exact ⟨s, rfl, by rwa [List.append_nil]⟩
  | cons c more ih =>
    obtain ⟨u, hu, hloaded⟩ := h.char c
    obtain ⟨t, ht, hall⟩ := ih hloaded
    refine ⟨t, ?_, by rwa [List.append_cons]⟩
    rw [List.map_cons, List.cons_append, execAll, hu]
    exact ht

/-- Settles O44: KEY_CLEAR empties the loader, each KEY_CHAR extends what it holds, KEY_COMMIT answers as ParseKey. -/
theorem keyLoaderComputesParseKey : Obligations.KeyLoaderComputesParseKey := by
  intro s str hr hj hp
  obtain ⟨u, hclear, hempty⟩ := Loaded.empty hr hj hp
  obtain ⟨v, hchars, hloaded⟩ := hempty.chars str [.keyCommit]
  obtain ⟨t, hcommit, hend⟩ := hloaded.commit
  refine ⟨t, ?_, hend⟩
  rw [execAll, hclear]
  simp only [hchars, execAll, hcommit]

end Sys2Proof.Machine

/-! PROOFS of the family 43_control.md: the write of a word to CMD, the code each command reports and the job it leaves,
who writes OVR, then NOP and CLR_STATUS. -/

namespace Sys2Proof.Machine

/-! ### The write of a word to CMD -/

/-- The host's turn with a write next is that write, with the turn and the operation gone. -/
theorem step_write {s : State} {off : Int} {n : Nat} {w : Word} {rest : List HostOp} (hn : s.nextTurn = .host)
    (hq : s.hostQueue = .write off n w :: rest) :
    step s = hostWrite off n w { s with turns := s.turns.tail, hostQueue := rest } := by
  simp [step, hn, takeTurn, hostTurn, hq, State.popTurn]

/-- A legal word written to CMD is its command, busy or idle: with a job in progress both are the drop (R97, R98). -/
theorem hostWrite_cmd_eq_exec {s : State} {w : Word} {i : Instr} (hr : s.inReset = false) (hd : decode w = .ok i) :
    hostWrite 0x00 4 w s = exec i { s with reply := .written } := by
  by_cases hj : s.job = .none
  · exact hostWrite_cmd_legal hr hj hd
  · rw [hostWrite_cmd_busy hr hj]
    exact (exec_busy (s := s.respond .written) hr hj).symm

/-- The step in which the host writes a legal word to CMD: the first half of O6. -/
theorem step_write_cmd {s : State} {w : Word} {i : Instr} {rest : List HostOp} (hr : s.inReset = false)
    (hn : s.nextTurn = .host) (hq : s.hostQueue = .write 0x00 4 w :: rest) (hd : decode w = .ok i) :
    step s = exec i { s with turns := s.turns.tail, hostQueue := rest, reply := .written } :=
  (step_write hn hq).trans (hostWrite_cmd_eq_exec (by exact hr) hd)

/-- Settles O6: `withFetchWord` makes the write of its word the host's next operation, and the turn the host's. -/
theorem stepRunsDecodedCommand : Obligations.StepRunsDecodedCommand := by
  refine ⟨fun _ _ _ _ => step_write_cmd, fun s w i hr hd => ?_⟩
  have hword : BitVec.ofNat 32 (w.toNat % 2 ^ 32) = w := by
    rw [Nat.mod_eq_of_lt w.isLt, BitVec.ofNat_toNat, BitVec.setWidth_eq]
  have hq : (s.withFetchWord 32 w.toNat).hostQueue = .write 0x00 4 w :: s.hostQueue := by
    rw [State.withFetchWord, hword]
  refine ⟨?_, step_write_cmd hr rfl hq hd⟩
  rw [decodeTableWord, if_pos (Nat.mod_lt _ (by decide)), hword, hd]

/-! ### The code each command reports and the job it leaves -/

theorem startCipher_err (j : Job) (s : State) : (startCipher j s).err = if s.keyv then .ok else .keyNotLoaded := by
  unfold startCipher
  split <;> rfl

theorem startCipher_job (j : Job) (s : State) : (startCipher j s).job = if s.keyv then j else s.job := by
  unfold startCipher
  split <;> rfl

theorem startHash_err (s : State) : (startHash s).err = if s.keyv then .ok else .keyNotLoaded := by
  unfold startHash
  split <;> rfl

theorem startHash_job (s : State) : (startHash s).job = s.job := by
  unfold startHash
  split <;> rfl

theorem absorbByte_err (b : Byte) (s : State) :
    (absorbByte b s).err = if s.phase = .absorb then .ok else .hashNotActive := by
  unfold absorbByte
  split
  · split <;> rfl
  · rfl

/-- BUFCNT has 3 bits, so that it is 7 when the next byte completes a block. -/
theorem not_lt_seven_iff (n : BitVec 3) : ¬ n.toNat < 7 ↔ n = 7 := by
  bv_omega

theorem absorbByte_job (b : Byte) (s : State) :
    (absorbByte b s).job = if s.phase = .absorb ∧ s.bufcnt = 7 then .hblk else s.job := by
  by_cases hp : s.phase = .absorb
  · by_cases hc : s.bufcnt.toNat < 7
    · have h7 : s.bufcnt ≠ 7 := fun h => (not_lt_seven_iff _).mpr h hc
      rw [absorbByte_buffers hp hc, if_neg fun h => h7 h.2]
      rfl
    · rw [absorbByte_starts hp hc, if_pos ⟨hp, (not_lt_seven_iff _).mp hc⟩]
      rfl
  · rw [absorbByte_inactive hp, if_neg fun h => hp h.1]
    rfl

theorem finishHash_err (s : State) : (finishHash s).err = if s.phase = .absorb then .ok else .hashNotActive := by
  unfold finishHash
  split <;> rfl

theorem finishHash_job (s : State) : (finishHash s).job = if s.phase = .absorb then .hfin else s.job := by
  unfold finishHash
  split <;> rfl

theorem unlessLocked_err (effect : State → State) (s : State) :
    (unlessLocked effect s).err = if s.phase = .absorb then .keyLocked else (effect s).err := by
  unfold unlessLocked
  split <;> rfl

theorem unlessLocked_job {effect : State → State} {s : State} (h : (effect s).job = s.job) :
    (unlessLocked effect s).job = s.job := by
  unfold unlessLocked
  split
  · rfl
  · exact h

theorem receiveChar_err (c : Byte) (s : State) : (receiveChar c s).err = .ok := by rw [receiveChar_eq]

theorem receiveChar_job (c : Byte) (s : State) : (receiveChar c s).job = s.job := by rw [receiveChar_eq]

theorem commitKey_err (s : State) :
    (commitKey s).err =
      if s.kcnt ≠ 64 then .invalidKeyLength else if s.kbad then .invalidKeyEncoding else .ok := by
  unfold commitKey
  split
  · rfl
  · split <;> rfl

theorem commitKey_job (s : State) : (commitKey s).job = s.job := by
  unfold commitKey
  split
  · rfl
  · split <;> rfl

/-- The code each accepted command reports, as the table of R99 gives it. -/
def reportedCode (i : Instr) (s : State) : ErrCode :=
  match i with
  | .nop => .ok
  | .clrStatus => .ok
  | .encrypt => if s.keyv then .ok else .keyNotLoaded
  | .decrypt => if s.keyv then .ok else .keyNotLoaded
  | .hashInit => if s.keyv then .ok else .keyNotLoaded
  | .hashByte _ => if s.phase = .absorb then .ok else .hashNotActive
  | .hashFinal => if s.phase = .absorb then .ok else .hashNotActive
  | .keyClear => if s.phase = .absorb then .keyLocked else .ok
  | .keyChar _ => if s.phase = .absorb then .keyLocked else .ok
  | .keyCommit =>
    if s.phase = .absorb then .keyLocked
    else if s.kcnt ≠ 64 then .invalidKeyLength
    else if s.kbad then .invalidKeyEncoding
    else .ok
  | .keyWord _ => if s.phase = .absorb then .keyLocked else .ok

theorem effectOf_err {i : Instr} (hwf : i.wellFormed = true) (s : State) :
    (effectOf i s).err = reportedCode i s := by
  cases i with
  | nop | clrStatus => rfl
  | encrypt | decrypt => exact startCipher_err _ s
  | hashInit => exact startHash_err s
  | hashByte b => exact absorbByte_err b s
  | hashFinal => exact finishHash_err s
  | keyClear => exact unlessLocked_err _ s
  | keyChar c => simp only [effectOf, unlessLocked_err, receiveChar_err, reportedCode]
  | keyCommit => simp only [effectOf, unlessLocked_err, commitKey_err, reportedCode]
  | keyWord idx =>
    rw [effectOf, dif_pos (of_decide_eq_true hwf)]
    exact unlessLocked_err _ s

/-- The job an accepted command leaves in progress, as the table of R99 gives it. -/
def startedJob (i : Instr) (s : State) : Job :=
  match i with
  | .nop => .none
  | .clrStatus => .none
  | .encrypt => if s.keyv then .enc else .none
  | .decrypt => if s.keyv then .dec else .none
  | .hashInit => .none
  | .hashByte _ => if s.phase = .absorb ∧ s.bufcnt = 7 then .hblk else .none
  | .hashFinal => if s.phase = .absorb then .hfin else .none
  | .keyClear => .none
  | .keyChar _ => .none
  | .keyCommit => .none
  | .keyWord _ => .none

/-- An idle CORE has the job its accepted command starts, whether the command's term is well-formed or not. -/
theorem effectOf_job {s : State} (hj : s.job = .none) (i : Instr) : (effectOf i s).job = startedJob i s := by
  cases i with
  | nop | clrStatus => exact hj
  | encrypt | decrypt => simp only [effectOf, startCipher_job, hj, startedJob]
  | hashInit => exact (startHash_job s).trans hj
  | hashByte b => simp only [effectOf, absorbByte_job, hj, startedJob]
  | hashFinal => simp only [effectOf, finishHash_job, hj, startedJob]
  | keyClear => exact (unlessLocked_job rfl).trans hj
  | keyChar c => exact (unlessLocked_job (receiveChar_job c s)).trans hj
  | keyCommit => exact (unlessLocked_job (commitKey_job s)).trans hj
  | keyWord idx =>
    rw [effectOf]
    split
    · exact (unlessLocked_job rfl).trans hj
    · exact hj

/-- The commands of `startsJob` are those whose row of the table has a job. -/
theorem startedJob_ne_none_iff (i : Instr) (s : State) : startedJob i s ≠ .none ↔ startsJob i s := by
  cases i with
  | encrypt | decrypt | hashByte | hashFinal => simp [startedJob, startsJob]
  | _ => exact iff_of_false (not_not_intro rfl) id

/-- Settles O54: the table is `reportedCode` and `startedJob`. -/
theorem commandsFollowCheckTable : Obligations.CommandsFollowCheckTable :=
  ⟨fun s i hr hj hwf => ⟨effectOf i s, exec_idle hr hj, effectOf_err hwf s, effectOf_job hj i⟩,
    fun _ _ _ hr hj hd => ⟨_, hostWrite_cmd_illegal hr hj hd, rfl, hj⟩⟩

/-- Settles O53. -/
theorem acceptedCommandStartsJobOrCompletes : Obligations.AcceptedCommandStartsJobOrCompletes := by
  intro s i hr hj
  refine ⟨effectOf i s, exec_idle hr hj, ?_⟩
  rw [busy_eq_true_iff, effectOf_job hj, startedJob_ne_none_iff]

/-! ### Who writes OVR -/

/-- No command but CLR_STATUS writes OVR (R36). -/
theorem effectOf_keeps_ovr {i : Instr} (h : i ≠ .clrStatus) (s : State) : (effectOf i s).ovr = s.ovr := by
  cases i with
  | clrStatus => exact absurd rfl h
  | _ =>
    simp only [effectOf, startCipher, startHash, absorbByte, finishHash, unlessLocked, clearKey, receiveChar, commitKey,
      loadWord]
    (repeat' split) <;> rfl

/-- A step keeps OVR, or sets it by dropping a word, or clears it by CLR_STATUS or a reset (R36, R98, R101). -/
theorem step_ovr_cases {s t : State} (h : step s = .next t) :
    t.ovr = s.ovr ∨
    (t.ovr = true ∧ s.nextTurn = .host ∧ s.job ≠ .none ∧ ∃ w rest, s.hostQueue = .write 0x00 4 w :: rest) ∨
    (t.ovr = false ∧ (ResetStep s ∨ Accepts s .clrStatus)) := by
  rcases step_core_cases h with hs | ⟨v, -, ht | ht | ht⟩ | ⟨w, rest, hn, -, hj, hq, rfl⟩ |
    ⟨w, rest, hn, hr, hj, hq, ht⟩ | ⟨-, -, -, rfl⟩ | ⟨hreset, held, rfl⟩ | ⟨-, rfl⟩
  · exact .inl (by rw [hs])
  · exact .inl (by rw [ht])
  · exact .inl (by rw [ht])
  · exact .inl (by rw [ht])
  · exact .inr (.inl ⟨rfl, hn, hj, w, rest, hq⟩)
  · cases hd : decode w with
    | error e => exact .inl (by rw [ht, hd])
    | ok i =>
      rw [hd] at ht
      by_cases hclr : i = .clrStatus
      · subst hclr ht
        exact .inr (.inr ⟨rfl, .inr ⟨w, hd, (acceptsWord_iff s w).mpr ⟨hn, hr, hj, rest, hq⟩⟩⟩)
      · exact .inl (by rw [ht, effectOf_keeps_ovr hclr])
  · exact .inl (engineStep_ovr _)
  · exact .inr (.inr ⟨rfl, .inl hreset⟩)
  · exact .inl rfl

/-- Settles O50, by the three things a step can do to OVR. -/
theorem busyCommandIsDropped : Obligations.BusyCommandIsDropped := by
  refine ⟨fun _ _ => hostWrite_cmd_busy, fun _ _ => exec_busy, fun s t h => ?_⟩
  rcases step_ovr_cases h with hkeep | ⟨hset, hdropped⟩ | ⟨hclear, hcause⟩
  · rw [hkeep]
    exact ⟨fun h0 h1 => absurd (h0.symm.trans h1) Bool.false_ne_true,
      fun h1 h0 => absurd (h0.symm.trans h1) Bool.false_ne_true⟩
  · exact ⟨fun _ _ => hdropped, fun _ h0 => by simp [hset] at h0⟩
  · exact ⟨fun _ h1 => by simp [hclear] at h1, fun _ _ => hcause⟩

/-! ### NOP and CLR_STATUS -/

/-- A mask for STATUS that keeps every field but ERR and OVR whole, and of these the bits `err` and `ovr` (R37). -/
def statusMask (err : BitVec 4) (ovr : BitVec 1) : Word :=
  BitVec.allOnes 1 ++ BitVec.allOnes 7 ++ BitVec.allOnes 8 ++ BitVec.allOnes 1 ++ BitVec.allOnes 3 ++ err
    ++ BitVec.allOnes 3 ++ ovr ++ BitVec.allOnes 2 ++ BitVec.allOnes 1 ++ BitVec.allOnes 1

theorem status_and_statusMask (s : State) (err : BitVec 4) (ovr : BitVec 1) :
    s.status &&& statusMask err ovr =
      BitVec.ofBool s.kbad ++ s.kcnt ++ s.kmask ++ 0#1 ++ s.bufcnt ++ (s.err.bits &&& err) ++ 0#3
        ++ (BitVec.ofBool s.ovr &&& ovr) ++ s.phase.bits ++ BitVec.ofBool s.keyv ++ BitVec.ofBool s.busy := by
  refine BitVec.and_append.trans ?_
  simp only [BitVec.and_append, BitVec.and_allOnes]

/-- STATUS after ERR and OVR have changed to what a mask leaves of them. -/
theorem status_eq_and_statusMask {s t : State} {err : BitVec 4} {ovr : BitVec 1}
    (h : t = { s with err := t.err, ovr := t.ovr }) (herr : t.err.bits = s.err.bits &&& err)
    (hovr : BitVec.ofBool t.ovr = BitVec.ofBool s.ovr &&& ovr) : t.status = s.status &&& statusMask err ovr := by
  rw [status_and_statusMask, ← herr, ← hovr, h]
  rfl

/-- A legal word with OPC 0x00 is NOP's one word (R59, R100). -/
theorem eq_zero_of_decode_of_opcField {w : Word} {i : Instr} (hd : decode w = .ok i) (h0 : opcField w = 0x00) :
    w = 0 := by
  obtain ⟨-, hopc, -, -⟩ := fields_of_decode hd
  obtain ⟨-, hencode⟩ := decodedWordIsItsEncoding w i hd
  have hop : opcode i = 0x00 := hopc.symm.trans h0
  have hnop : i = .nop := by
    cases i with
    | nop => rfl
    | _ => exact absurd hop (by simp [opcode])
  rw [← hencode, hnop]
  rfl

/-- Settles O51. -/
theorem nopReportsOk : Obligations.NopReportsOk := by
  refine ⟨by decide, fun s hr hj => ⟨_, exec_idle hr hj, rfl, ?status⟩, fun _ => exec_busy,
    fun w h0 hne => ?illegal⟩
  case status =>
    exact status_eq_and_statusMask (err := 0#4) (ovr := BitVec.allOnes 1) rfl BitVec.and_zero.symm
      BitVec.and_allOnes.symm
  case illegal =>
    cases hd : decode w with
    | error e => exact ⟨e, rfl⟩
    | ok i => exact absurd (eq_zero_of_decode_of_opcField hd h0) hne

/-- Settles O52. -/
theorem clrStatusClearsOvrAndErr : Obligations.ClrStatusClearsOvrAndErr := by
  refine ⟨by decide, fun s hr hj => ⟨_, exec_idle hr hj, rfl, ?_⟩, fun _ => exec_busy⟩
  exact status_eq_and_statusMask (err := 0#4) (ovr := 0#1) rfl BitVec.and_zero.symm BitVec.and_zero.symm

end Sys2Proof.Machine

/-! PROOFS of the family 60_exceptions.md: that errors are precise and which command reports which code when, then how
PHASE leaves ABSORB, what raises BusError, and the order of a CMD write and the step that completes a job. -/

namespace Sys2Proof.Machine

/-! ### Errors are precise -/

/-- From `s` to `t`, a command accepted: either OK is reported, or nothing but ERR has changed (R103). -/
def ErrorPrecise (s t : State) : Prop := t.err = .ok ∨ t = { s with err := t.err }

theorem errorPrecise_report (s : State) (c : ErrCode) : ErrorPrecise s (s.report c) := .inr rfl

theorem startCipher_errorPrecise (j : Job) (s : State) : ErrorPrecise s (startCipher j s) := by
  unfold startCipher
  split
  · exact .inl rfl
  · exact errorPrecise_report s _

theorem startHash_errorPrecise (s : State) : ErrorPrecise s (startHash s) := by
  unfold startHash
  split
  · exact .inl rfl
  · exact errorPrecise_report s _

theorem absorbByte_errorPrecise (b : Byte) (s : State) : ErrorPrecise s (absorbByte b s) := by
  by_cases hp : s.phase = .absorb
  · exact .inl ((absorbByte_err b s).trans (if_pos hp))
  · rw [absorbByte_inactive hp]
    exact errorPrecise_report s _

theorem finishHash_errorPrecise (s : State) : ErrorPrecise s (finishHash s) := by
  by_cases hp : s.phase = .absorb
  · exact .inl ((finishHash_err s).trans (if_pos hp))
  · rw [finishHash_inactive hp]
    exact errorPrecise_report s _

/-- In ABSORB a key command only reports (R109). -/
theorem unlessLocked_absorb {s : State} (hp : s.phase = .absorb) (effect : State → State) :
    unlessLocked effect s = s.report .keyLocked := if_pos hp

theorem unlessLocked_not_absorb {s : State} (hp : s.phase ≠ .absorb) (effect : State → State) :
    unlessLocked effect s = effect s := if_neg hp

/-- A key command whose effect past the lock always reports OK is precise. -/
theorem unlessLocked_errorPrecise {effect : State → State} {s : State} (h : (effect s).err = .ok) :
    ErrorPrecise s (unlessLocked effect s) := by
  by_cases hp : s.phase = .absorb
  · rw [unlessLocked_absorb hp]
    exact errorPrecise_report s _
  · rw [unlessLocked_not_absorb hp]
    exact .inl h

/-- `t` is `s` after a KEY_COMMIT that failed a check: the loader is emptied and KMASK cleared (R95). -/
def CommitFailed (s t : State) : Prop :=
  (t.err = .invalidKeyLength ∨ t.err = .invalidKeyEncoding) ∧
    t = { s with
      err := t.err, kmask := 0, kstage := #v[0, 0, 0, 0, 0, 0, 0, 0], kcnt := 0, kbad := false }

theorem commitKey_outcome (s : State) : (commitKey s).err = .ok ∨ CommitFailed s (commitKey s) := by
  unfold commitKey
  split
  · exact .inr ⟨.inl rfl, rfl⟩
  · split
    · exact .inr ⟨.inr rfl, rfl⟩
    · exact .inl rfl

/-- Every accepted command is precise, but for a KEY_COMMIT that fails a check of its own (R103). -/
theorem effectOf_errorPrecise (i : Instr) (s : State) :
    ErrorPrecise s (effectOf i s) ∨ (i = .keyCommit ∧ CommitFailed s (effectOf i s)) := by
  cases i with
  | nop | clrStatus => exact .inl (.inl rfl)
  | encrypt | decrypt => exact .inl (startCipher_errorPrecise _ s)
  | hashInit => exact .inl (startHash_errorPrecise s)
  | hashByte b => exact .inl (absorbByte_errorPrecise b s)
  | hashFinal => exact .inl (finishHash_errorPrecise s)
  | keyClear => exact .inl (unlessLocked_errorPrecise rfl)
  | keyChar c => exact .inl (unlessLocked_errorPrecise (receiveChar_err c s))
  | keyCommit =>
    rw [effectOf]
    by_cases hp : s.phase = .absorb
    · rw [unlessLocked_absorb hp]
      exact .inl (errorPrecise_report s _)
    · rw [unlessLocked_not_absorb hp]
      exact (commitKey_outcome s).imp .inl fun h => ⟨rfl, h⟩
  | keyWord idx =>
    simp only [effectOf]
    split
    · exact .inl (unlessLocked_errorPrecise rfl)
    · exact .inl (errorPrecise_report s _)

/-- The ill-formed term KEY_WORD does what its illegal word does (R62, R107, log entry 9). -/
theorem effectOf_keyWord_illFormed {idx : Byte} (h : 8 ≤ idx.toNat) (s : State) :
    effectOf (.keyWord idx) s = s.report .illegalCommand :=
  dif_neg (not_lt.mpr h)

/-- Settles O55. -/
theorem errorsArePrecise : Obligations.ErrorsArePrecise := by
  refine ⟨fun s t i hr hj h herr => ?_, fun s idx hr hj hidx => ?_⟩
  · obtain rfl := Host.Outcome.next.inj ((exec_idle hr hj).symm.trans h)
    exact (effectOf_errorPrecise i s).imp_left fun hprecise => hprecise.resolve_left herr
  · rw [exec_idle hr hj, effectOf_keyWord_illFormed hidx]
    rfl

/-! ### Which command reports which code when -/

/-- A code that is neither OK nor KEY_COMMIT's own is reported with nothing but ERR changed. -/
theorem effectOf_eq_report {i : Instr} {s : State} {c : ErrCode} (h : (effectOf i s).err = c) (hok : c ≠ .ok)
    (hlength : c ≠ .invalidKeyLength) (hencoding : c ≠ .invalidKeyEncoding) :
    effectOf i s = { s with err := c } := by
  subst h
  obtain hprecise | ⟨-, hcode, -⟩ := effectOf_errorPrecise i s
  · exact hprecise.resolve_left hok
  · exact absurd hcode (not_or.mpr ⟨hlength, hencoding⟩)

/-- The code of a well-formed command is that of the table of R99; an ill-formed term is KEY_WORD's and reports
ILLEGAL_COMMAND. -/
theorem effectOf_err_cases (i : Instr) (s : State) :
    (effectOf i s).err = reportedCode i s ∨ ((∃ idx, i = .keyWord idx) ∧ (effectOf i s).err = .illegalCommand) := by
  cases i with
  | keyWord idx =>
    by_cases h : idx.toNat < 8
    · exact .inl (effectOf_err (i := .keyWord idx) (decide_eq_true h) s)
    · exact .inr ⟨⟨idx, rfl⟩, by rw [effectOf_keyWord_illFormed (not_lt.mp h), State.report_err]⟩
  | _ => exact .inl (effectOf_err rfl s)

theorem reportedCode_eq_keyNotLoaded_iff (i : Instr) (s : State) :
    reportedCode i s = .keyNotLoaded ↔ s.keyv = false ∧ (i = .encrypt ∨ i = .decrypt ∨ i = .hashInit) := by
  cases i with
  | encrypt | decrypt | hashInit => cases hk : s.keyv <;> simp [reportedCode, hk]
  | _ =>
    refine iff_of_false ?_ (by simp)
    rw [reportedCode]
    (repeat' split) <;> decide

theorem reportedCode_eq_hashNotActive_iff (i : Instr) (s : State) :
    reportedCode i s = .hashNotActive ↔ s.phase ≠ .absorb ∧ ((∃ b, i = .hashByte b) ∨ i = .hashFinal) := by
  cases i with
  | hashByte | hashFinal => by_cases hp : s.phase = .absorb <;> simp [reportedCode, hp]
  | _ =>
    refine iff_of_false ?_ (by simp)
    rw [reportedCode]
    (repeat' split) <;> decide

theorem reportedCode_eq_keyLocked_iff (i : Instr) (s : State) :
    reportedCode i s = .keyLocked ↔
      s.phase = .absorb ∧
        (i = .keyClear ∨ (∃ c, i = .keyChar c) ∨ i = .keyCommit ∨ ∃ idx, i = .keyWord idx) := by
  cases i with
  | keyClear | keyChar | keyCommit | keyWord =>
    by_cases hp : s.phase = .absorb
    · exact iff_of_true (if_pos hp) ⟨hp, by simp⟩
    · refine iff_of_false ?_ fun h => hp h.1
      rw [reportedCode, if_neg hp]
      (repeat' split) <;> decide
  | _ =>
    refine iff_of_false ?_ (by simp)
    rw [reportedCode]
    (repeat' split) <;> decide

theorem phase_ne_absorb_iff (p : Phase) : p ≠ .absorb ↔ p = .idle ∨ p = .done := by
  cases p <;> decide

/-- Settles O56. -/
theorem keyNotLoadedReported : Obligations.KeyNotLoadedReported := by
  intro s i hr hj
  refine ⟨effectOf i s, exec_idle hr hj, ?_, fun h => effectOf_eq_report h (by decide) (by decide) (by decide)⟩
  obtain herr | ⟨⟨idx, rfl⟩, herr⟩ := effectOf_err_cases i s
  · rw [herr, reportedCode_eq_keyNotLoaded_iff]
  · simp [herr]

/-- Settles O57. -/
theorem hashNotActiveReported : Obligations.HashNotActiveReported := by
  intro s i hr hj
  refine ⟨effectOf i s, exec_idle hr hj, ?_, fun h => effectOf_eq_report h (by decide) (by decide) (by decide)⟩
  rw [← phase_ne_absorb_iff]
  obtain herr | ⟨⟨idx, rfl⟩, herr⟩ := effectOf_err_cases i s
  · rw [herr, reportedCode_eq_hashNotActive_iff]
  · simp [herr]

/-- Settles O58. -/
theorem keyLockedReported : Obligations.KeyLockedReported := by
  intro s i hr hj hwf
  refine ⟨effectOf i s, exec_idle hr hj, ?_, fun h => effectOf_eq_report h (by decide) (by decide) (by decide)⟩
  rw [effectOf_err hwf, reportedCode_eq_keyLocked_iff]

/-! ### How PHASE leaves ABSORB -/

/-- No command leaves ABSORB: HASH_INIT enters it, and no other writes PHASE (R31, R84). -/
theorem effectOf_absorb (i : Instr) {s : State} (hp : s.phase = .absorb) : (effectOf i s).phase = .absorb := by
  cases i with
  | hashInit =>
    simp only [effectOf, startHash]
    split
    · rfl
    · exact hp
  | keyClear | keyChar | keyCommit =>
    rw [effectOf, unlessLocked_absorb hp]
    exact hp
  | keyWord idx =>
    simp only [effectOf, unlessLocked_absorb hp]
    split <;> exact hp
  | _ =>
    simp only [effectOf, startCipher, absorbByte, finishHash]
    (repeat' split) <;> exact hp

/-- An engine step that writes PHASE completes an HFIN job (R74). -/
theorem engineStep_phase {s : State} (h : (engineStep s).phase ≠ s.phase) :
    s.rnd = 31 ∧ s.job = .hfin ∧ (engineStep s).phase = .done := by
  by_cases hj : s.job = .none
  · exact absurd (by rw [engineStep_without_job hj]) h
  · rcases engineStep_cases hj with ⟨-, he⟩ | ⟨hr, he⟩
    · exact absurd (by rw [he]) h
    · rw [he] at h ⊢
      cases hc : s.job <;> simp [completeJob, hc] at h ⊢
      exact hr

/-- Settles O15. -/
theorem phaseLeavesAbsorbOnlyAtEnd : Obligations.PhaseLeavesAbsorbOnlyAtEnd := by
  intro s t h hp hne
  rcases step_internals_cases h with ⟨hs, -⟩ | ⟨i, u, -, hu, rfl⟩ | ⟨w, u, -, hu, rfl⟩ | ⟨hn, hr, -, rfl⟩ |
    ⟨hreset, held, rfl⟩
  · exact absurd (by rw [hs]; exact hp) hne
  · exact absurd (effectOf_absorb i (by rw [hu]; exact hp)) hne
  · exact absurd (by rw [hu]; exact hp) hne
  · obtain ⟨hrnd, hjob, hdone⟩ := engineStep_phase (s := s.popTurn) fun hsame => hne (hsame.trans hp)
    exact .inl ⟨⟨hn, hr, hjob, hrnd⟩, hdone⟩
  · exact .inr ⟨hreset, rfl⟩

/-! ### BusError -/

/-- Settles O19: such an access is refused. -/
theorem refusedAccessRaisesBusError : Obligations.RefusedAccessRaisesBusError := by
  intro s off n v hr h0 hlast hrefused
  have hw : inWindow off = true := decide_eq_true ⟨h0, hlast⟩
  have hf : refusedAccess off n = true := decide_eq_true hrefused
  exact ⟨hostAccess_refused hw hr hf, hostAccess_refused hw hr hf⟩

/-- An access out of reset that ends with BusError was refused, if it does not end so when it is taken (R111). -/
theorem refused_of_busError {off : Int} {n : Nat} {taken : State → Host.Outcome State Fault Refusal} {s t : State}
    {a : Int} (hr : s.inReset = false) (htaken : ∀ u, taken s = .next u → u.reply ≠ .busError a)
    (h : hostAccess off n taken s = .next t) (ha : t.reply = .busError a) :
    a = Config.base + off ∧ (n ≠ 4 ∨ off % 4 ≠ 0) := by
  cases hw : inWindow off with
  | false =>
    rw [hostAccess_outside hw] at h
    cases h
  | true =>
    cases hf : refusedAccess off n with
    | true =>
      rw [hostAccess_refused hw hr hf] at h
      cases h
      exact ⟨(BusReply.busError.inj ha).symm, of_decide_eq_true hf⟩
    | false =>
      rw [hostAccess_taken hw hr hf] at h
      exact absurd ha (htaken t h)

/-- A register write, a command included, leaves the answer of the bus alone. -/
theorem writeReg_reply {s t : State} {r : WindowReg} {v : Word} (hr : s.inReset = false)
    (h : writeReg r v s = .next t) : t.reply = s.reply := by
  cases r with
  | cmd =>
    by_cases hj : s.job = .none
    · rw [writeReg, writeCmd_idle hr hj] at h
      cases h
      cases decode v with
      | ok i =>
        obtain ⟨-, -, -, -, hreply, -⟩ := effectOf_environment i s
        exact hreply
      | error e => rfl
    · rw [writeReg, writeCmd_busy hj] at h
      cases h
      rfl
  | _ => cases h; rfl

theorem hostRead_busError {off : Int} {n : Nat} {s t : State} {a : Int} (hr : s.inReset = false)
    (h : hostRead off n s = .next t) (ha : t.reply = .busError a) :
    a = Config.base + off ∧ (n ≠ 4 ∨ off % 4 ≠ 0) :=
  refused_of_busError hr (fun u hu => by cases hu; simp) h ha

theorem hostWrite_busError {off : Int} {n : Nat} {v : Word} {s t : State} {a : Int} (hr : s.inReset = false)
    (h : hostWrite off n v s = .next t) (ha : t.reply = .busError a) :
    a = Config.base + off ∧ (n ≠ 4 ∨ off % 4 ≠ 0) :=
  refused_of_busError hr (fun u hu => by simp [writeReg_reply (by exact hr) hu]) h ha

/-- The host's turn ends with a new BusError only when its operation is a refused access (R111). -/
theorem hostTurn_busError {s t : State} {a : Int} (hr : s.inReset = false) (h : hostTurn s = .next t)
    (ha : t.reply = .busError a) (hnew : s.reply ≠ .busError a) :
    ∃ (off : Int) (n : Nat) (rest : List HostOp), a = Config.base + off ∧ (n ≠ 4 ∨ off % 4 ≠ 0) ∧
      (s.hostQueue = .read off n :: rest ∨ ∃ v, s.hostQueue = .write off n v :: rest) := by
  cases hq : s.hostQueue with
  | nil =>
    simp only [hostTurn, hq] at h
    cases h
    exact absurd ha hnew
  | cons op rest =>
    cases op with
    | read off n =>
      simp only [hostTurn, hq] at h
      obtain ⟨haddr, hrefused⟩ := hostRead_busError (by exact hr) h ha
      exact ⟨off, n, rest, haddr, hrefused, .inl rfl⟩
    | write off n v =>
      simp only [hostTurn, hq] at h
      obtain ⟨haddr, hrefused⟩ := hostWrite_busError (by exact hr) h ha
      exact ⟨off, n, rest, haddr, hrefused, .inr ⟨v, rfl⟩⟩
    | wait =>
      simp only [hostTurn, hq, hostWait_admitted hr] at h
      cases h
      cases ha

theorem engineTurn_reply (s : State) : (engineTurn s).reply = s.reply := by
  unfold engineTurn
  split
  · rfl
  · rw [engineStep_frame]

/-- Settles O20: no turn but the host's writes the answer of the bus. -/
theorem busErrorOnlyForRefusedAccess : Obligations.BusErrorOnlyForRefusedAccess := by
  intro s t a hr h ha hnew
  rcases step_cases h with ⟨-, hturn⟩ | ⟨-, rfl⟩ | ⟨-, rfl⟩ | ⟨-, rfl⟩ | ⟨-, rfl⟩
  · exact hostTurn_busError (s := s.popTurn) hr hturn ha hnew
  · exact absurd ((engineTurn_reply s.popTurn).symm.trans ha) hnew
  · exact absurd ha hnew
  · exact absurd ha hnew
  · exact absurd ha hnew

/-! ### A CMD write and the completing engine step -/

/-- The engine step at round 31 ends the job (R74). -/
theorem engineStep_last_job {s : State} (hj : s.job ≠ .none) (hrnd : s.rnd = 31) : (engineStep s).job = .none := by
  rw [engineStep_last hj ((not_lt_last_iff _).mpr hrnd)]
  exact completeJob_job _

/-- Settles O25. -/
theorem completionOrderDecidesDrop : Obligations.CompletionOrderDecidesDrop := by
  intro s w i hr hj hrnd hd
  refine ⟨hostWrite_cmd_busy hr hj, engineStep_last_job hj hrnd, engineStep_ovr _, engineStep_last_job hj hrnd, ?_⟩
  exact hostWrite_cmd_legal (by simpa using hr) (engineStep_last_job hj hrnd) hd

end Sys2Proof.Machine

/-! PROOFS of the family 70_reset_and_hazards.md: the job in progress under the default schedule (R131), what the
registers read after a reset (R123), and what a held reset takes (R122). -/

namespace Sys2Proof.Machine

/-! ### The job in progress under the default schedule -/

/-- Past the end of the list of turns a running job has the next turn, and takes an engine step (R131, log entry 3). -/
theorem step_default_busy {s : State} (hr : s.inReset = false) (ht : s.turns = []) (hj : s.job ≠ .none) :
    step s = .next (engineStep s) := by
  have hn : s.nextTurn = .engine := by simp [State.nextTurn, ht, State.busy, hj]
  have hpop : s.popTurn = s := by rw [State.popTurn, ht, List.tail_nil, ← ht]
  rw [step, hn, hpop, takeTurn, engineTurn, if_neg (by simp [hr])]

/-- An engine step of a running job moves: it leaves a round less to run (R74, R131). -/
theorem engineStep_ne_self {s : State} (hj : s.job ≠ .none) : engineStep s ≠ s := by
  intro h
  have hless : roundsLeft s = roundsLeft s - 1 := by rw [← roundsLeft_engineStep, h]
  have hleft : roundsLeft s ≠ 0 := fun h0 => hj ((roundsLeft_eq_zero_iff s).mp h0)
  omega

/-- Under the default schedule a run of as many steps as there are rounds left ends the job and takes nothing from the
host's queue. -/
theorem run_roundsLeft (n : Nat) {s : State} (hr : s.inReset = false) (ht : s.turns = []) (hn : roundsLeft s = n) :
    ∃ t, core.run n s = .next t ∧ t.job = .none ∧ t.hostQueue = s.hostQueue := by
  induction n generalizing s with
  | zero => exact ⟨s, rfl, (roundsLeft_eq_zero_iff s).mp hn, rfl⟩
  | succ n ih =>
    have hj : s.job ≠ .none := fun hj => by simp [roundsLeft_idle hj] at hn
    obtain ⟨t, hrun, hend, hq⟩ :=
      ih (s := engineStep s) (by simp [hr]) (by simp [ht]) (by rw [roundsLeft_engineStep, hn, Nat.add_sub_cancel])
    rw [core_run_succ (step_default_busy hr ht hj)]
    exact ⟨t, hrun, hend, hq.trans (engineStep_hostQueue s)⟩

/-- Settles O59: each engine step leaves a round less to run. -/
theorem everyJobCompletes : Obligations.EveryJobCompletes :=
  ⟨fun _ => engineStep_ne_self, fun s hr ht => run_roundsLeft (roundsLeft s) hr ht rfl⟩

/-! ### Reset -/

/-- After a reset every register of the window reads 0 (R123). -/
@[simp] theorem readReg_platformReset (held : Bool) (s : State) (r : WindowReg) :
    readReg r (platformReset held s) = 0 := by
  cases r with
  | key i => exact Vector.getElem_replicate i.isLt
  | status => exact (by decide : State.reset.status = 0)
  | dig0 => exact (by decide : word0 State.reset.acc = 0)
  | dig1 => exact (by decide : word1 State.reset.acc = 0)
  | _ => rfl

/-- Settles O7: the elements have their reset values by what a reset writes; the registers read 0 by the lemma above. -/
theorem resetGivesResetValues : Obligations.ResetGivesResetValues := by
  intro s rest ht
  have hstep : step s = .next (platformReset false s.popTurn) := by
    rw [step, State.nextTurn, ht, takeTurn]
  refine ⟨_, hstep, ?_⟩
  iterate 24 refine ⟨rfl, ?_⟩
  exact readReg_platformReset false s.popTurn

/-- While reset is held the engine's turn changes nothing (R122). -/
theorem engineTurn_held {s : State} (hr : s.inReset = true) : engineTurn s = s := if_pos hr

/-- Settles O8: a held reset answers an access before it looks at it, and each reset turn is one update of the state. -/
theorem heldResetTakesNoAccess : Obligations.HeldResetTakesNoAccess := by
  refine ⟨fun s hr hn => ?_, fun s off n v hr hlo hhi => ?_, fun s hn => ?_, fun s hn => ?_⟩
  · have hheld : engineTurn s.popTurn = s.popTurn := engineTurn_held hr
    rw [step, hn, takeTurn, hheld, State.popTurn]
  · have hw : inWindow off = true := decide_eq_true ⟨hlo, hhi⟩
    exact ⟨hostAccess_held hw hr, hostAccess_held hw hr⟩
  · rw [step, hn, takeTurn]
    rfl
  · rw [step, hn, takeTurn, State.popTurn]

end Sys2Proof.Machine
